-- ==== Sys2Proof/Word.lean ====
section
/-! DEFINITION. Word: the bit-vector types of the block (30_encoding.md rules R90, R105). -/

namespace Sys2Proof

/-- A 32-bit word: the command word `W` (R90), the result register `RESI` (R20), an event header (R100). -/
abbrev Word := BitVec 32

/-- A 30-bit navigation word, first received bit in bit 29: nav bit `b` is bit `30 − b` (R105). -/
abbrev NavWord := BitVec 30

end Sys2Proof
end

