-- ==== Sys2Proof/Syntax.lean ====
section
/-! DEFINITION. Syntax: the eleven commands of 30_encoding.md rule R92, one constructor for each row
of spec/opcode_table.json. The operands `OPA`, `OPB` are not in the word: they are registers (R20). -/

namespace Sys2Proof

/-- A command selected by its word `W` (R92). Field `A` is a satellite id, field `B` an index; both
stand as the word holds them (R91), in range or not. -/
inductive Instr where
  /-- `NOP`, R360. -/
  | nop
  /-- `NCO.EVAL`, R121. -/
  | ncoEval
  /-- `NCO.SETF`, R122; `OPA` in hertz. -/
  | ncoSetf
  /-- `NCO.ADDF`, R123; `OPA` in hertz. -/
  | ncoAddf
  /-- `NCO.ADVP`, R124; `OPA` in radians. -/
  | ncoAdvp
  /-- `CG.CHIP sat, idx`, R152. -/
  | cgChip (sat : BitVec 8) (idx : BitVec 16)
  /-- `CG.SPEC sat, bin`, R153. -/
  | cgSpec (sat : BitVec 8) (bin : BitVec 16)
  /-- `SAMPLE`, R341; `OPA` the real part, `OPB` the imaginary part. -/
  | sample
  /-- `CH.STAT sat`, R363. -/
  | chStat (sat : BitVec 8)
  /-- `ACQ.STAT`, R362. -/
  | acqStat
  /-- `SYS.STAT`, R361. -/
  | sysStat
deriving DecidableEq, Repr

end Sys2Proof
end

