-- ==== Sys2Proof/Decode.lean ====
section
/-! DEFINITION. Decode: command words (30_encoding.md rules R90 to R95) to commands and back. -/

namespace Sys2Proof

/-- Field `OPC` of a command word, `W[31:24]` (R90). -/
def fieldOpc (w : Word) : BitVec 8 := w.extractLsb' 24 8

/-- Field `A` of a command word, `W[23:16]` (R90). -/
def fieldA (w : Word) : BitVec 8 := w.extractLsb' 16 8

/-- Field `B` of a command word, `W[15:0]` (R90). -/
def fieldB (w : Word) : BitVec 16 := w.extractLsb' 0 16

/-- One row of the opcode map of R92. -/
structure OpcodeRow where
  /-- The row's name in R92. -/
  mnemonic : String
  /-- The row's `match`. -/
  value : Word
  /-- The row's `mask`. -/
  mask : Word
  /-- The command a word of the row stands for. -/
  build : Word → Instr

/-- The opcode map of R92, in its order. -/
def opcodeRows : List OpcodeRow :=
  [ ⟨"NOP", 0x00000000#32, 0xFFFFFFFF#32, fun _ => .nop⟩,
    ⟨"NCO.EVAL", 0x01000000#32, 0xFFFFFFFF#32, fun _ => .ncoEval⟩,
    ⟨"NCO.SETF", 0x02000000#32, 0xFFFFFFFF#32, fun _ => .ncoSetf⟩,
    ⟨"NCO.ADDF", 0x03000000#32, 0xFFFFFFFF#32, fun _ => .ncoAddf⟩,
    ⟨"NCO.ADVP", 0x04000000#32, 0xFFFFFFFF#32, fun _ => .ncoAdvp⟩,
    ⟨"CG.CHIP", 0x10000000#32, 0xFF000000#32, fun w => .cgChip (fieldA w) (fieldB w)⟩,
    ⟨"CG.SPEC", 0x11000000#32, 0xFF000000#32, fun w => .cgSpec (fieldA w) (fieldB w)⟩,
    ⟨"SAMPLE", 0x20000000#32, 0xFFFFFFFF#32, fun _ => .sample⟩,
    ⟨"CH.STAT", 0x30000000#32, 0xFF00FFFF#32, fun w => .chStat (fieldA w)⟩,
    ⟨"ACQ.STAT", 0x31000000#32, 0xFFFFFFFF#32, fun _ => .acqStat⟩,
    ⟨"SYS.STAT", 0x32000000#32, 0xFFFFFFFF#32, fun _ => .sysStat⟩ ]

/-- A word selects the row whose `W & mask == match` (R92). -/
def OpcodeRow.selects (r : OpcodeRow) (w : Word) : Bool := w &&& r.mask == r.value

/-- Why no row of R92 matches a word (R96). -/
inductive Reject where
  /-- The operation code selects nothing (R93). Safe: the word raises IllegalCommand, as R96 says. -/
  | noSuchOpcode (opc : BitVec 8)
  /-- A field that must be zero is not (R94). Safe: the word raises IllegalCommand, as R96 says. -/
  | mustBeZero (mnemonic : String)
deriving DecidableEq, Repr

/-- The name of the rejection of a word that no row selects: the row of its operation code, if there
is one, whose zero fields it breaks (R94), or no row at all (R93). -/
def rejectOf (w : Word) : Reject :=
  match opcodeRows.find? (fun r => fieldOpc r.value == fieldOpc w) with
  | some r => .mustBeZero r.mnemonic
  | none => .noSuchOpcode (fieldOpc w)

/-- The command a word selects, or the name of its rejection (R92, R96). Total on all words. -/
def decode (w : Word) : Except Reject Instr :=
  match opcodeRows.find? (fun r => r.selects w) with
  | some r => .ok (r.build w)
  | none => .error (rejectOf w)

/-- A command word from its three fields (R90). -/
def assemble (opc a : BitVec 8) (b : BitVec 16) : Word := opc ++ (a ++ b)

/-- The command word of a command (R92). -/
def encode : Instr → Word
  | .nop => assemble 0x00 0 0
  | .ncoEval => assemble 0x01 0 0
  | .ncoSetf => assemble 0x02 0 0
  | .ncoAddf => assemble 0x03 0 0
  | .ncoAdvp => assemble 0x04 0 0
  | .cgChip sat idx => assemble 0x10 sat idx
  | .cgSpec sat bin => assemble 0x11 sat bin
  | .sample => assemble 0x20 0 0
  | .chStat sat => assemble 0x30 sat 0
  | .acqStat => assemble 0x31 0 0
  | .sysStat => assemble 0x32 0 0

/-- The command the decoder reads from a word whose low `nbits` bits are those of `w`, the rest 0.
A command is one 32-bit word on the port, so no order of bytes enters (R62, R95). -/
def decodeTableWord (nbits w : Nat) : Option Instr :=
  match decode (BitVec.ofNat 32 (w % 2 ^ nbits)) with
  | .ok i => some i
  | .error _ => none

end Sys2Proof
end

