-- ==== Sys2Proof/Config.lean ====
section
/-! DEFINITION. Config: what the spec leaves to the implementation. The numerics record `NUM`
(00_scope.md rule R6), the construction record `CFG` (rule R3) and the free draw of rule R201. -/

namespace Sys2Proof

/-- A value of type `Num` as the block's state holds it: the code of a number. Which number a code
names is `NUM`'s business and nothing here says it (R6: no numeric format is given; R91: the bit
pattern of an operand "is part of `NUM`"). DESIGN CHOICE: codes are natural numbers (log entry 1). -/
structure NumVal where
  /-- The code; no rule depends on it. -/
  code : Nat
deriving DecidableEq, Repr, Inhabited

/-- The numerics record `NUM` (R6): total functions of their operands alone, over a carrier `α`.
Beside the ten that R6 lists it gives the literals of the rules (`lit n d` is the value of `n/d`),
`π`, and the test "is a number" that R384 makes on a sample (log entry 2); and the free value of R198 where
it states no ratio (log entry 18). -/
structure Numerics (α : Type) where
  (add sub mul div : α → α → α)
  (sqrt sin cos floor : α → α)
  /-- `atan2 y x`, as R7 writes it. -/
  atan2 : α → α → α
  /-- The comparison `<`. -/
  lt : α → α → Bool
  /-- The literal `n/d` of a rule. -/
  lit : Int → Nat → α
  pi : α
  /-- False of a value that is not a number, the infinities included (R384). -/
  isNumber : α → Bool
  /-- The detection ratio of an accumulation whose mean is below 0, which R198 does not state. -/
  unstatedRatio : List α → α

/-- The construction record `CFG` (R3), less `NUM`. `SEC_PER_TRIGGER` is the fraction
`secNum / secDen` (log entry 3). -/
structure Cfg where
  /-- `FS_HZ`, the sample rate in hertz (R2). -/
  fsHz : Nat
  /-- `N_EPOCHS`, the 1 ms periods of one capture. -/
  nEpochs : Nat
  /-- Numerator of `SEC_PER_TRIGGER`. -/
  secNum : Nat
  /-- Denominator of `SEC_PER_TRIGGER`. -/
  secDen : Nat
  /-- `F_SEARCH_MAX`, in hertz. -/
  fSearchMax : Nat
  /-- `SWEEP_LATENCY`: `none` is a free draw at every poll (R201). -/
  sweepLatency : Option Nat
deriving DecidableEq, Repr

namespace Config

/-- `NUM.add`, uninterpreted (R6, decision D2). -/
opaque add : NumVal → NumVal → NumVal
/-- `NUM.sub`, uninterpreted. -/
opaque sub : NumVal → NumVal → NumVal
/-- `NUM.mul`, uninterpreted. -/
opaque mul : NumVal → NumVal → NumVal
/-- `NUM.div`, uninterpreted. -/
opaque div : NumVal → NumVal → NumVal
/-- `NUM.sqrt`, uninterpreted. -/
opaque sqrt : NumVal → NumVal
/-- `NUM.sin`, uninterpreted. -/
opaque sin : NumVal → NumVal
/-- `NUM.cos`, uninterpreted. -/
opaque cos : NumVal → NumVal
/-- `NUM.floor`, uninterpreted. -/
opaque floor : NumVal → NumVal
/-- `NUM.atan2`, uninterpreted. -/
opaque atan2 : NumVal → NumVal → NumVal
/-- `NUM.<`, uninterpreted. -/
opaque lt : NumVal → NumVal → Bool
/-- The value `NUM` gives the literal `n/d`, uninterpreted. -/
opaque lit : Int → Nat → NumVal
/-- The value `NUM` gives `π`, uninterpreted. -/
opaque pi : NumVal
/-- Whether `NUM` calls a value a number, uninterpreted. -/
opaque isNumber : NumVal → Bool
/-- The ratio of an accumulation whose mean is below 0: R198 states none, a free value for each
accumulation. DESIGN CHOICE, log entry 18. -/
opaque unstatedRatio : List NumVal → NumVal

/-- The machine's `NUM`: every entry an uninterpreted total function (R6's second choice). -/
def num : Numerics NumVal where
  add := add
  sub := sub
  mul := mul
  div := div
  sqrt := sqrt
  sin := sin
  cos := cos
  floor := floor
  atan2 := atan2
  lt := lt
  lit := lit
  pi := pi
  isNumber := isNumber
  unstatedRatio := unstatedRatio

/-- How many draws of R201 in a row answer "not done" before the `k`-th "done" (`k` from 0): a free
natural number for each `k`. R201's draws are read off it (`Machine.sweepDone`), so that they are free but
for the fairness R201 asks of them, "not false for ever". Log entry 5. -/
opaque notDoneDraws : Nat → Nat

/-- `N_EPOCHS − 1` of the configuration that `State.reset` takes; open in R3 (decision D5). -/
opaque epochsLessOne : Nat
/-- One less than the numerator of its `SEC_PER_TRIGGER`; open in R3. -/
opaque secNumLessOne : Nat
/-- One less than the denominator of its `SEC_PER_TRIGGER`; open in R3. -/
opaque secDenLessOne : Nat
/-- Its `F_SEARCH_MAX` in steps of 50 Hz; open in R3. -/
opaque searchSteps : Nat
/-- Its `SWEEP_LATENCY`; open in R3 (decision D20). -/
opaque sweepLatency : Option Nat

/-- The configuration `State.reset` takes: `FS_HZ` at R2's default, every value R3 leaves open a free
value within the type R3 gives it. Log entry 4. -/
def cfg : Cfg where
  fsHz := 2046000
  nEpochs := epochsLessOne + 1
  secNum := secNumLessOne + 1
  secDen := secDenLessOne + 1
  fSearchMax := 50 * searchSteps
  sweepLatency := sweepLatency

end Config

end Sys2Proof
end

