-- ==== Sys2Proof/Machine/Parameters.lean ====
section
/-! DEFINITION. Parameters: what follows from `CFG` (00_scope.md rules R2, R3) and the fixed constants
of rule R4. -/

namespace Sys2Proof

/-- `CHIP_RATE`, in hertz (R4). -/
def chipRate : Nat := 1023000

/-- `CODE_LEN`, in chips (R4). -/
def codeLen : Nat := 1023

/-- `N_SAT`: satellites are 1 to 32 (R4, R106). -/
def nSat : Nat := 32

/-- `F_STEP`, in hertz (R4). -/
def fStep : Nat := 50

/-- `SPC = FS_HZ / 1_023_000`, samples per chip (R2). -/
def Cfg.spc (cfg : Cfg) : Nat := cfg.fsHz / chipRate

/-- `N = 1023 · SPC`, samples in one code period and length of the transforms (R2). -/
def Cfg.n (cfg : Cfg) : Nat := codeLen * cfg.spc

/-- `N_EPOCHS · N`, the length of a capture (R29). -/
def Cfg.captureLen (cfg : Cfg) : Nat := cfg.nEpochs * cfg.n

/-- `TRIG_SAMPLES = ceil(SEC_PER_TRIGGER · FS_HZ)` (R3). -/
def Cfg.trigSamples (cfg : Cfg) : Nat := (cfg.secNum * cfg.fsHz + (cfg.secDen - 1)) / cfg.secDen

/-- `H`, the number of frequency hypotheses (R194). -/
def Cfg.hypotheses (cfg : Cfg) : Nat := 2 * cfg.fSearchMax / fStep + 1

/-- `f_h`, the trial frequency of hypothesis `h`, in hertz (R194). -/
def Cfg.hypothesis (cfg : Cfg) (h : Nat) : Int := (fStep * h : Nat) - (cfg.fSearchMax : Int)

/-- The sample rate is a whole multiple of the chip rate (R2); if it is not, reset raises
ConfigFatal (R381). -/
def Cfg.chipAligned (cfg : Cfg) : Bool := cfg.fsHz % chipRate == 0

/-- The parameters are within the types of R3 and R91 (`SPC ≤ 64`); a record outside them "is not a
configuration of this block and the model refuses it" (R381, decision D50). -/
def Cfg.inType (cfg : Cfg) : Bool :=
  0 < cfg.fsHz && 1 ≤ cfg.nEpochs && 0 < cfg.secNum && 0 < cfg.secDen
    && cfg.fSearchMax % fStep == 0 && (!cfg.chipAligned || cfg.spc ≤ 64)

/-- `OFF_VALID_N` (R4). -/
def offValidN : Nat := 10
/-- `OFF_INVALID_N` (R4). -/
def offInvalidN : Nat := 10
/-- `FA_PERIODS` (R4). -/
def faPeriods : Nat := 20
/-- `FA_MA_LEN` (R4). -/
def faMaLen : Nat := 5
/-- `PLL_BLOCK` (R4). -/
def pllBlock : Nat := 5
/-- `PLL_VALID_N` (R4). -/
def pllValidN : Nat := 200
/-- `IQ_INVALID_N` (R4). -/
def iqInvalidN : Nat := 10
/-- `BIT_PERIODS` (R4). -/
def bitPeriods : Nat := 20
/-- `WORD_BITS` (R4). -/
def wordBits : Nat := 30
/-- `SF_WORDS` (R4). -/
def sfWords : Nat := 10
/-- `FRAME_SF` (R4). -/
def frameSf : Nat := 5
/-- `PREAMBLE`, first received bit on the left (R4). -/
def preamble : BitVec 8 := 0b10001011#8

variable {α : Type} (num : Numerics α)

/-- `T_PERIOD`, 0.001 s (R4). -/
def Numerics.tPeriod : α := num.lit 1 1000
/-- `RATIO_MIN`, 3.0 (R4). -/
def Numerics.ratioMin : α := num.lit 3 1
/-- `FA_LOCK`, 0.02 Hz (R4, R263). -/
def Numerics.faLock : α := num.lit 2 100
/-- `FREQ_MAX`, 125 Hz (R4). -/
def Numerics.freqMax : α := num.lit 125 1
/-- `FREQ_FACTOR`, 5e-4 (R4). -/
def Numerics.freqFactor : α := num.lit 5 10000
/-- `PHASE_FACTOR`, 1e-2 (R4). -/
def Numerics.phaseFactor : α := num.lit 1 100

end Sys2Proof
end

