-- ==== Sys2Proof/Machine/Numeric.lean ====
section
/-! DEFINITION. Numeric: the functions of 00_scope.md rules R6 to R8 over any numerics record `NUM`,
and complex numbers. -/

namespace Sys2Proof

/-- A complex number `re + j·im` of type `Cx` (R6). -/
structure Cx (α : Type) where
  re : α
  im : α
deriving DecidableEq, Repr

variable {α : Type} (num : Numerics α)

/-- The value of an integer. -/
def Numerics.ofInt (i : Int) : α := num.lit i 1
/-- The value of a natural number. -/
def Numerics.ofNat (k : Nat) : α := num.lit k 1
/-- The value 0. -/
def Numerics.zero : α := num.lit 0 1
/-- The value 1. -/
def Numerics.one : α := num.lit 1 1
/-- `−x`. -/
def Numerics.neg (x : α) : α := num.sub num.zero x
/-- `a ≤ b`, from the one comparison `<` that R6 gives. -/
def Numerics.le (a b : α) : Bool := !num.lt b a
/-- `|x|`. -/
def Numerics.abs (x : α) : α := if num.lt x num.zero then num.neg x else x
/-- `x = 0`, from the one comparison `<` that R6 gives. -/
def Numerics.isZero (x : α) : Bool := num.le x num.zero && num.le num.zero x
/-- `2π`. -/
def Numerics.twoPi : α := num.mul (num.lit 2 1) num.pi
/-- `π/2`. -/
def Numerics.halfPi : α := num.div num.pi (num.lit 2 1)
/-- `π/4`. -/
def Numerics.quarterPi : α := num.div num.pi (num.lit 4 1)

/-- `FA_OUTLIER`, π/2 rad (R4). -/
def Numerics.faOutlier : α := num.halfPi
/-- `PHASE_MAX`, π/4 rad (R4). -/
def Numerics.phaseMax : α := num.quarterPi
/-- `IQ_VALID_ANGLE`, π/4 rad (R4). -/
def Numerics.iqValidAngle : α := num.quarterPi

/-- `wrap2pi(x) = x − 2π·floor(x/2π)` (R7). -/
def Numerics.wrap2pi (x : α) : α :=
  num.sub x (num.mul num.twoPi (num.floor (num.div x num.twoPi)))

/-- `wrappi(x) = wrap2pi(x + π) − π` (R7). -/
def Numerics.wrappi (x : α) : α := num.sub (num.wrap2pi (num.add x num.pi)) num.pi

/-- `fold(x)`: an angle folded into `(−π/2, π/2]` (R7). -/
def Numerics.fold (x : α) : α :=
  if num.lt num.halfPi x then num.sub x num.pi
  else if num.le x (num.neg num.halfPi) then num.add x num.pi
  else x

/-- The sum of a sequence, added up from index 0 (log entry 6). -/
def Numerics.sum (xs : List α) : α := xs.foldl num.add num.zero

/-- The greatest of a sequence; 0 of the empty one. -/
def Numerics.maximum : List α → α
  | [] => num.zero
  | x :: xs => xs.foldl (fun m y => if num.lt m y then y else m) x

/-- The search of `argmax`: `best` at index `at'` is the first maximum so far, the rest of the
sequence starts at index `i`. -/
def Numerics.argmaxFrom (best : α) (at' i : Nat) : List α → Nat
  | [] => at'
  | x :: xs =>
    if num.lt best x then Numerics.argmaxFrom x i (i + 1) xs
    else Numerics.argmaxFrom best at' (i + 1) xs

/-- `argmax`: the least index at which the maximum is attained (R8). -/
def Numerics.argmax : List α → Nat
  | [] => 0
  | x :: xs => num.argmaxFrom x 0 1 xs

/-- The sign `+1` or `−1` (R7, R36, R37). -/
inductive Sign where
  | pos
  | neg
deriving DecidableEq, Repr

/-- A sign as an integer. -/
def Sign.toInt : Sign → Int
  | .pos => 1
  | .neg => -1

/-- The other sign. -/
def Sign.flip : Sign → Sign
  | .pos => .neg
  | .neg => .pos

/-- `sgn(x)`: `+1` if `x ≥ 0`, else `−1` (R7). -/
def Numerics.sgn (x : α) : Sign := if num.lt x num.zero then .neg else .pos

/-- The complex number 0. -/
def Numerics.czero : Cx α := ⟨num.zero, num.zero⟩
/-- Complex sum. -/
def Numerics.cadd (z w : Cx α) : Cx α := ⟨num.add z.re w.re, num.add z.im w.im⟩
/-- Complex product. -/
def Numerics.cmul (z w : Cx α) : Cx α :=
  ⟨num.sub (num.mul z.re w.re) (num.mul z.im w.im), num.add (num.mul z.re w.im) (num.mul z.im w.re)⟩
/-- A complex number scaled by a real one. -/
def Numerics.cscale (k : α) (z : Cx α) : Cx α := ⟨num.mul k z.re, num.mul k z.im⟩
/-- `conj(z) = (re, −im)` (R7). -/
def Numerics.conj (z : Cx α) : Cx α := ⟨z.re, num.neg z.im⟩
/-- `e^{jθ}`. -/
def Numerics.cis (theta : α) : Cx α := ⟨num.cos theta, num.sin theta⟩
/-- The sum of a complex sequence, added up from index 0 (log entry 6). -/
def Numerics.csum (zs : List (Cx α)) : Cx α := zs.foldl num.cadd num.czero
/-- `mag2(z) = re² + im²` (R7). -/
def Numerics.mag2 (z : Cx α) : α := num.add (num.mul z.re z.re) (num.mul z.im z.im)
/-- `mag(z) = sqrt(re² + im²)` (R7). -/
def Numerics.mag (z : Cx α) : α := num.sqrt (num.mag2 z)
/-- `z = 0`. -/
def Numerics.cIsZero (z : Cx α) : Bool := num.isZero z.re && num.isZero z.im
/-- `arg(z) = atan2(im z, re z)`, with `arg(0) = 0` (R7). -/
def Numerics.arg (z : Cx α) : α := if num.cIsZero z then num.zero else num.atan2 z.im z.re

end Sys2Proof
end

