-- ==== Sys2Proof/Machine/Correlator.lean ====
section
/-! DEFINITION. Correlator: the transforms, the correlation and the peak search, 42_correlator.md. -/

namespace Sys2Proof.Machine

variable {α : Type} (num : Numerics α)

/-- The angle `2π·k·m/N` of a transform. -/
def twiddle (n k m : Nat) : α := num.div (num.mul num.twoPi (num.ofNat (k * m))) (num.ofNat n)

/-- `DFT(y)[k] = Σ y[m]·e^{−j2πkm/N}` (R170). -/
def dftBin (n : Nat) (y : List (Cx α)) (k : Nat) : Cx α :=
  num.csum ((List.range n).map fun m =>
    num.cmul (y.getD m num.czero) (num.conj (num.cis (twiddle num n k m))))

/-- `DFT`, the forward transform of a sequence of length `n` (R170). -/
def dft (n : Nat) (y : List (Cx α)) : List (Cx α) := (List.range n).map (dftBin num n y)

/-- `IDFT(Z)[m] = (1/N)·Σ Z[k]·e^{+j2πkm/N}` (R171). -/
def idftBin (n : Nat) (z : List (Cx α)) (m : Nat) : Cx α :=
  num.cscale (num.div num.one (num.ofNat n)) (num.csum ((List.range n).map fun k =>
    num.cmul (z.getD k num.czero) (num.cis (twiddle num n k m))))

/-- `IDFT`, the inverse transform of a sequence of length `n` (R171). -/
def idft (n : Nat) (z : List (Cx α)) : List (Cx α) := (List.range n).map (idftBin num n z)

/-- Elementwise product with a code spectrum (R172). -/
def mulSpectrum (n : Nat) (y spec : List (Cx α)) : List (Cx α) :=
  (List.range n).map fun k => num.cmul (y.getD k num.czero) (spec.getD k num.czero)

/-- `CORR`: the correlation waveform of a buffer against a code spectrum (R173). -/
def corr (n : Nat) (spec y : List (Cx α)) : List (Cx α) :=
  idft num n (mulSpectrum num n (dft num n y) spec)

/-- `offset_max` of `PEAK`: the index of maximum magnitude (R175). -/
def peakIndex (c : List (Cx α)) : Nat := num.argmax (c.map num.mag)

/-- `peak` of `PEAK`: the value at the index of maximum magnitude (R175). -/
def peakValue (c : List (Cx α)) : Cx α := c.getD (peakIndex num c) num.czero

/-- The signed offset of a peak index, in `(−N/2, N/2]` (R176). -/
def signedOffset (n offsetMax : Nat) : Int :=
  if 2 * offsetMax ≤ n then (offsetMax : Int) else (offsetMax : Int) - n

/-- `4·|o| ≤ SPC`: the offset is within a quarter chip (R177). -/
def offsetValid (spc : Nat) (o : Int) : Bool := 4 * o.natAbs ≤ spc

end Sys2Proof.Machine
end

