-- ==== Sys2Proof/Machine/CodeGen.lean ====
section
/-! DEFINITION. CodeGen: the G1 and G2 shift registers, the 32 Gold codes and their spectra,
41_codegen.md. -/

namespace Sys2Proof.Machine

/-- `LFSR10`: ten one-bit stages with feedback and output taps (R140). Stage `i` is bit `i − 1` of
`stage`. -/
structure Lfsr10 where
  stage : BitVec 10
  fbTaps : List Nat
  outTaps : List Nat
deriving DecidableEq, Repr

/-- Stage `i` of a register, `i` in 1..10 (R141). -/
def lfsrStage (r : Lfsr10) (i : Nat) : Bool := r.stage.getLsbD (i - 1)

/-- The exclusive or of the stages a list names. -/
def lfsrXor (r : Lfsr10) (taps : List Nat) : Bool := taps.foldl (fun x i => x ^^ lfsrStage r i) false

/-- `LFSR.STEP`: stage `i` moves to stage `i + 1`, stage 10 is dropped, the feedback bit enters
stage 1 (R141 to R143). -/
def lfsrStep (r : Lfsr10) : Lfsr10 :=
  { r with stage := (r.stage.extractLsb' 0 9) ++ BitVec.ofBool (lfsrXor r r.fbTaps) }

/-- The output of a register: the exclusive or of its output taps. -/
def lfsrOut (r : Lfsr10) : Bool := lfsrXor r r.outTaps

/-- The phase-select table: the pair of `G2` stages of each satellite (R144). -/
def phaseSelect : List (Nat × Nat) :=
  [ (2, 6), (3, 7), (4, 8), (5, 9), (1, 9), (2, 10), (1, 8), (2, 9),
    (3, 10), (2, 3), (3, 4), (5, 6), (6, 7), (7, 8), (8, 9), (9, 10),
    (1, 4), (2, 5), (3, 6), (4, 7), (5, 8), (6, 9), (1, 3), (4, 6),
    (5, 7), (6, 8), (7, 9), (8, 10), (1, 6), (2, 7), (3, 8), (4, 9) ]

/-- `G1` at the start of a code: all ones, feedback `1 + x^3 + x^10`, output stage 10 (R141, R142). -/
def g1Init : Lfsr10 := ⟨0x3FF#10, [3, 10], [10]⟩

/-- `G2` at the start of satellite `s`'s code: all ones, feedback
`1 + x^2 + x^3 + x^6 + x^8 + x^9 + x^10`, output the satellite's pair (R141, R143, R144). -/
def g2Init (s : Nat) : Lfsr10 :=
  let t := phaseSelect.getD (s - 1) (1, 1)
  ⟨0x3FF#10, [2, 3, 6, 8, 9, 10], [t.1, t.2]⟩

/-- `chip <- G1.stage[10] ^ G2.stage[a_s] ^ G2.stage[b_s]` (R145). -/
def chipOf (g1 g2 : Lfsr10) : Bool := lfsrOut g1 ^^ lfsrOut g2

/-- `k` chips, each read before the registers step, and the registers after them (R145, R146). -/
def goldRun : Nat → Lfsr10 → Lfsr10 → List Bool × Lfsr10 × Lfsr10
  | 0, g1, g2 => ([], g1, g2)
  | k + 1, g1, g2 =>
    let r := goldRun k (lfsrStep g1) (lfsrStep g2)
    (chipOf g1 g2 :: r.1, r.2)

/-- `GOLD.GEN s`: the 1023 chips of satellite `s` and the registers after the last (R146). -/
def goldGen (s : Nat) : List Bool × Lfsr10 × Lfsr10 := goldRun codeLen g1Init (g2Init s)

variable {α : Type} (num : Numerics α)

/-- `pm(c) = 1 − 2c`: chip 0 is `+1`, chip 1 is `−1` (R147). -/
def pm (c : Bool) : α := num.ofInt (if c then -1 else 1)

/-- `CODE.OVERSAMPLE`: each chip held for `SPC` samples, chip 0 at sample 0 (R148). -/
def oversample (cfg : Cfg) (code : List Bool) : List (Cx α) :=
  (List.range cfg.n).map fun i => ⟨pm num (code.getD (i / cfg.spc) false), num.zero⟩

/-- `CODE.SPECTRUM`: the conjugate of the transform of the oversampled code (R150). -/
def codeSpectrum (cfg : Cfg) (code : List Bool) : List (Cx α) :=
  (dft num cfg.n (oversample num cfg code)).map num.conj

end Sys2Proof.Machine
end

