-- ==== Sys2Proof/Machine/Oscillator.lean ====
section
/-! DEFINITION. Oscillator: the numerically-controlled oscillator, 40_nco.md. -/

namespace Sys2Proof.Machine

/-- An oscillator: phase in radians and increment in radians per sample (10_state.md rule R25). -/
structure Osc (α : Type) where
  phase : α
  inc : α
deriving DecidableEq, Repr

variable {α : Type} (num : Numerics α)

/-- A newly created oscillator: phase and increment 0 (R25, R120). -/
def oscNew : Osc α := ⟨num.zero, num.zero⟩

/-- `evaluate()`: the value before the advance (R121). -/
def oscOut (o : Osc α) : Cx α := num.cis o.phase

/-- `evaluate()`: the oscillator after the advance (R121). -/
def oscAdvance (o : Osc α) : Osc α := { o with phase := num.wrap2pi (num.add o.phase o.inc) }

/-- `2π·f/fs`, the increment of a frequency in hertz (R122). -/
def oscIncrement (cfg : Cfg) (f : α) : α := num.div (num.mul num.twoPi f) (num.ofNat cfg.fsHz)

/-- `set_frequency(f)` (R122). -/
def oscSetFrequency (cfg : Cfg) (f : α) (o : Osc α) : Osc α := { o with inc := oscIncrement num cfg f }

/-- `add_frequency(Δ)` (R123). -/
def oscAddFrequency (cfg : Cfg) (df : α) (o : Osc α) : Osc α :=
  { o with inc := num.add o.inc (oscIncrement num cfg df) }

/-- `advance_phase(Δθ)` (R124). -/
def oscAdvancePhase (dtheta : α) (o : Osc α) : Osc α :=
  { o with phase := num.wrap2pi (num.add o.phase dtheta) }

/-- `freq(osc) = inc · fs / 2π`, in hertz (R120). -/
def oscFrequency (cfg : Cfg) (o : Osc α) : α :=
  num.div (num.mul o.inc (num.ofNat cfg.fsHz)) num.twoPi

/-- `mix(x, osc) = x · osc.evaluate()`: the product, no conjugate (R126). The oscillator after it is
`oscAdvance`. -/
def mix (o : Osc α) (x : Cx α) : Cx α := num.cmul x (oscOut num o)

/-- A run of samples mixed one by one, and the oscillator after them (R126, R195). -/
def mixAll (o : Osc α) : List (Cx α) → List (Cx α) × Osc α
  | [] => ([], o)
  | x :: xs =>
    let r := mixAll (oscAdvance num o) xs
    (mix num o x :: r.1, r.2)

end Sys2Proof.Machine
end

