-- ==== Sys2Proof/Machine/Block.lean ====
section
/-! DEFINITION. Block: every piece of state of 10_state.md (rules R20 to R42) as plain data, over any
carrier `α` of `Num`; the event records of 30_encoding.md rule R100. -/

namespace Sys2Proof.Machine

/-- `sys.mode` (R22). -/
inductive Mode where
  | run
  | fatal
deriving DecidableEq, Repr

/-- `acq.state` (R28). -/
inductive AcqState where
  | idle
  | collecting
  | searching
  | resultsReady
deriving DecidableEq, Repr

/-- `ch[s].state`, the lock state (R30). -/
inductive LockState where
  | offsetAcquire
  | frequencyAcquire
  | pllAcquire
  | bitAcquire
  | preambleAcquire
  | subframeAcquire
  | signalLost
deriving DecidableEq, Repr

/-- The cause carried by a `STATE` event (R103). -/
inductive Cause where
  | advance
  | offsetInvalid
  | iqInvalid
  | parity
  | bitsync
  | subframeDone
deriving DecidableEq, Repr

/-- `ch[s].meta[i]`: the metadata record of a stored subframe (R39). -/
structure SubframeMeta where
  tlmMsg : BitVec 14
  integrity : Bool
  tow : BitVec 17
  alert : Bool
  antispoof : Bool
deriving DecidableEq, Repr

/-- An event record (R100). -/
inductive Event (α : Type) where
  /-- `ACQ_DONE`, R202. -/
  | acqDone (found : Nat)
  /-- `ACQ_RESULT`, R202. -/
  | acqResult (sat : Nat) (promoted : Bool) (ratio freq : α)
  /-- `SAT_ADD`, R203. -/
  | satAdd (sat : Nat)
  /-- `SAT_DEL`, R349. -/
  | satDel (sat : Nat)
  /-- `STATE`, R251. -/
  | stateChange (sat : Nat) (old new : LockState) (cause : Cause)
  /-- `NAV_BIT`, R273. -/
  | navBit (sat : Nat) (bit : Bool)
  /-- `BITSYNC_LOST`, R272. -/
  | bitsyncLost (sat : Nat)
  /-- `SUBFRAME`, R318. -/
  | subframe (sat : Nat) (stored : Bool) (id : BitVec 3) (words : List NavWord) (info : SubframeMeta)
  /-- `FRAME_READY`, R322. -/
  | frameReady (sat : Nat)
  /-- `PARITY_FAIL`, R316. -/
  | parityFail (sat : Nat) (idx : Nat)
  /-- `FATAL_CONFIG`, R381. -/
  | fatalConfig
deriving DecidableEq, Repr

/-- `sys`: mode, sticky flags and dispatcher state (R21 to R23, R27). -/
structure SysState (α : Type) where
  /-- `sys.mode` (R22). -/
  mode : Mode
  /-- `sys.err_cmd` (R23). -/
  errCmd : Bool
  /-- `sys.err_nan` (R23). -/
  errNan : Bool
  /-- `sys.sidx`, the absolute index of the next sample (R21). -/
  sidx : Nat
  /-- `sys.blk[0..N−1]`, the SampleBlock being assembled (R27). -/
  blk : List (Cx α)
  /-- `sys.blk_fill` (R27). -/
  blkFill : Nat
  /-- `sys.blk_t0` (R27). -/
  blkT0 : Nat
deriving DecidableEq, Repr

/-- `cmd`: the five registers of the command port (R20). `OPA` and `OPB` "hold no value until the host
writes them": the `Option` is the spec's own state. -/
structure CmdRegs (α : Type) where
  opa : Option α
  opb : Option α
  res0 : α
  res1 : α
  resi : Word
deriving DecidableEq, Repr

/-- `cg`: the two shift registers and the code tables (R26). Satellite `s` is at position `s − 1`. -/
structure CodeTables (α : Type) where
  /-- `cg.G1`. -/
  g1 : Lfsr10
  /-- `cg.G2`. -/
  g2 : Lfsr10
  /-- `cg.CODE[s][0..1022]`. -/
  code : List (List Bool)
  /-- `cg.SPEC[s][0..N−1]`. -/
  spec : List (List (Cx α))
deriving DecidableEq, Repr

/-- One entry `(sat, ratio, freq)` of `acq.found` (R29). -/
structure Found (α : Type) where
  sat : Nat
  ratio : α
  freq : α
deriving DecidableEq, Repr

/-- `acq`: the acquisition engine (R28, R29). -/
structure AcqEngine (α : Type) where
  /-- `acq.state`. -/
  state : AcqState
  /-- `acq.timer`. -/
  timer : Nat
  /-- `acq.buf[0..N_EPOCHS·N−1]`. -/
  buf : List (Cx α)
  /-- `acq.fill`. -/
  fill : Nat
  /-- `acq.nco`. -/
  nco : Osc α
  /-- `acq.best_ratio[1..32]`, satellite `s` at position `s − 1`. -/
  bestRatio : List α
  /-- `acq.best_freq[1..32]`, satellite `s` at position `s − 1`. -/
  bestFreq : List α
  /-- `acq.found`. -/
  found : List (Found α)
  /-- `acq.wait`. -/
  wait : Nat
deriving DecidableEq, Repr

/-- `ch[s]`: one tracking channel (R30 to R39). Lists are indexed from 0 here: word `i` of `sf`,
subframe `i` of `frame`, `frameHave` and `frameMeta` stand at position `i − 1`. -/
structure Channel (α : Type) where
  /-- `state` (R30). -/
  state : LockState
  /-- `active` (R23). -/
  active : Bool
  /-- `alive` (R23). -/
  alive : Bool
  /-- `nco` (R31). -/
  nco : Osc α
  /-- `buf[0..N−1]` (R32). -/
  buf : List (Cx α)
  /-- `fill` (R32). -/
  fill : Nat
  /-- `skip` (R32). -/
  skip : Nat
  /-- `code_off` (R32). -/
  codeOff : Int
  /-- `off_valid` (R33). -/
  offValid : Nat
  /-- `off_invalid` (R33). -/
  offInvalid : Nat
  /-- `fa_have_prev` (R34). -/
  faHavePrev : Bool
  /-- `fa_prev` (R34). -/
  faPrev : α
  /-- `fa_sum` (R34). -/
  faSum : α
  /-- `fa_n` (R34). -/
  faN : Nat
  /-- `ma[0..4]` (R34). -/
  ma : List α
  /-- `ma_n` (R34). -/
  maN : Nat
  /-- `ma_pos` (R34). -/
  maPos : Nat
  /-- `pll_err[0..4]` (R35). -/
  pllErr : List α
  /-- `pll_n` (R35). -/
  pllN : Nat
  /-- `pll_mean` (R35). -/
  pllMean : α
  /-- `pll_var` (R35). -/
  pllVar : α
  /-- `iq_valid` (R35). -/
  iqValid : Nat
  /-- `iq_invalid` (R35). -/
  iqInvalid : Nat
  /-- `bs_have_prev` (R36). -/
  bsHavePrev : Bool
  /-- `bs_prev` (R36). -/
  bsPrev : Sign
  /-- `bit_sum` (R36). -/
  bitSum : Int
  /-- `bit_cnt` (R36). -/
  bitCnt : Nat
  /-- `wreg` (R37). -/
  wreg : NavWord
  /-- `wbits` (R37). -/
  wbits : Nat
  /-- `polarity` (R37). -/
  polarity : Sign
  /-- `sf[1..10]` (R38). -/
  sf : List NavWord
  /-- `sf_bits` (R38). -/
  sfBits : Nat
  /-- `frame[1..5][1..10]` (R39). -/
  frame : List (List NavWord)
  /-- `frame_have[1..5]` (R39). -/
  frameHave : List Bool
  /-- `sf1_seen` (R39). -/
  sf1Seen : Bool
  /-- `meta[1..5]` (R39). -/
  frameMeta : List SubframeMeta
  /-- `d29` (R39). -/
  d29 : Bool
  /-- `d30` (R39). -/
  d30 : Bool
deriving DecidableEq, Repr

/-- The whole block: every unit of 10_state.md, the configuration that reset latched (R3, R420), and
the model's own count of the draws of R201. Channel `s` is at position `s − 1` of `ch`. -/
structure Block (α : Type) where
  /-- `CFG`, fixed for the life of the block (R3, R422). -/
  cfg : Cfg
  sys : SysState α
  cmd : CmdRegs α
  /-- `nco_h`, the oscillator the host commands address (R25). -/
  ncoH : Osc α
  cg : CodeTables α
  acq : AcqEngine α
  /-- `ch[1..32]` (R30). -/
  ch : List (Channel α)
  /-- `ev.out`, the output event stream (R41). -/
  evOut : List (Event α)
  /-- The MODEL's own: how many draws of R201 have been made. -/
  draws : Nat
deriving DecidableEq, Repr

/-- One command as the host puts it on the port: the word and the operands it supplies (R90). -/
structure Command (α : Type) where
  w : Word
  opa : Option α
  opb : Option α
deriving DecidableEq, Repr

/-- What the host does next: issue a command, or reset the block with a configuration (R5, R420). -/
inductive PortEvent (α : Type) where
  | command (c : Command α)
  | reset (cfg : Cfg)
deriving DecidableEq, Repr

end Sys2Proof.Machine
end

