-- ==== Sys2Proof/Machine/Creation.lean ====
section
/-! DEFINITION. Creation: the creation values of a channel (10_state.md rules R30 to R39), the code tables
(rule R26) and the reset values of the units (rule R43). -/

namespace Sys2Proof.Machine

variable {α : Type} (num : Numerics α)

/-- The metadata of a subframe never stored; R39 leaves it unspecified (log entry 8). -/
def metaNone : SubframeMeta := ⟨0, false, 0, false, false⟩

/-- The creation values of a channel (R30 to R39), before promotion sets its frequency and its flags.
Fields R30 to R39 leave unspecified ("never read before written") hold 0: log entry 8. -/
def channelNew (cfg : Cfg) : Channel α where
  state := .offsetAcquire
  active := false
  alive := false
  nco := oscNew num
  buf := List.replicate cfg.n num.czero
  fill := 0
  skip := 0
  codeOff := 0
  offValid := 0
  offInvalid := 0
  faHavePrev := false
  faPrev := num.zero
  faSum := num.zero
  faN := 0
  ma := List.replicate faMaLen num.zero
  maN := 0
  maPos := 0
  pllErr := List.replicate pllBlock num.zero
  pllN := 0
  pllMean := num.zero
  pllVar := num.zero
  iqValid := 0
  iqInvalid := 0
  bsHavePrev := false
  bsPrev := .pos
  bitSum := 0
  bitCnt := 0
  wreg := 0
  wbits := 0
  polarity := .pos
  sf := List.replicate sfWords 0
  sfBits := 0
  frame := List.replicate frameSf (List.replicate sfWords 0)
  frameHave := List.replicate frameSf false
  sf1Seen := false
  frameMeta := List.replicate frameSf metaNone
  d29 := false
  d30 := false

/-- A channel slot after reset: inactive, not alive, `SIGNAL_LOST`, every other field unspecified and
unobservable (R30, R43; log entry 8). -/
def channelReset (cfg : Cfg) : Channel α := { channelNew num cfg with state := .signalLost }

/-- The code tables that reset builds, satellites 1 to 32 in order; `G1` and `G2` as the last chip of
satellite 32 leaves them (R26, R420). -/
def codeTables (cfg : Cfg) : CodeTables α where
  g1 := (goldGen nSat).2.1
  g2 := (goldGen nSat).2.2
  code := (List.range nSat).map fun i => (goldGen (i + 1)).1
  spec := (List.range nSat).map fun i => codeSpectrum num cfg (goldGen (i + 1)).1

/-- Code tables that no reset has built: none (R381). -/
def codeTablesNone : CodeTables α := ⟨g1Init, g2Init nSat, [], []⟩

/-- The acquisition engine after reset (R28, R29, R43): the timer has expired (R191). The capture
buffer's contents are unspecified and hold 0 (log entry 8). -/
def acqReset (cfg : Cfg) : AcqEngine α where
  state := .idle
  timer := cfg.trigSamples
  buf := List.replicate cfg.captureLen num.czero
  fill := 0
  nco := oscNew num
  bestRatio := List.replicate nSat num.zero
  bestFreq := List.replicate nSat num.zero
  found := []
  wait := 0

/-- The reset values of R43, with the given code tables. -/
def blockWith (cfg : Cfg) (draws : Nat) (cg : CodeTables α) : Block α where
  cfg := cfg
  sys :=
    { mode := .run, errCmd := false, errNan := false, sidx := 0
      blk := List.replicate cfg.n num.czero, blkFill := 0, blkT0 := 0 }
  cmd := { opa := none, opb := none, res0 := num.zero, res1 := num.zero, resi := 0 }
  ncoH := oscNew num
  cg := cg
  acq := acqReset num cfg
  ch := List.replicate nSat (channelReset num cfg)
  evOut := []
  draws := draws

end Sys2Proof.Machine
end

