-- ==== Sys2Proof/Machine/Ops.lean ====
section
/-! DEFINITION. Ops: the named operations over memories and registers that the meanings share, and the
raising of the conditions of 60_exceptions.md. There is no return from a condition (R391). -/

namespace Sys2Proof.Machine

variable {α : Type} (num : Numerics α)

/-- `MemRead(space, i)`: element `i` of a space (R60, R64). An index outside the space cannot be
produced (R63); `none'` is what the read would give there. -/
def memRead {β : Type} (none' : β) (space : List β) (i : Nat) : β := space.getD i none'

/-- `MemWrite(space, i, v)`: element `i` of a space becomes `v`, every other element stays (R60, R64). -/
def memWrite {β : Type} (space : List β) (i : Nat) (v : β) : List β := space.set i v

/-- `ch[s]`, `s` in 1..32 (R30). -/
def channelAt (b : Block α) (s : Nat) : Channel α := b.ch.getD (s - 1) (channelReset num b.cfg)

/-- `ch[s] <- c`. -/
def setChannel (s : Nat) (c : Channel α) (b : Block α) : Block α := { b with ch := b.ch.set (s - 1) c }

/-- `cg.SPEC[s]`, the whole buffer (R153). -/
def spectrumOf (b : Block α) (s : Nat) : List (Cx α) := b.cg.spec.getD (s - 1) []

/-- `cg.CODE[s]`, the whole buffer (R60). -/
def codeOf (b : Block α) (s : Nat) : List Bool := b.cg.code.getD (s - 1) []

/-- `emit E`: append an event to the output stream (R41). -/
def emit (e : Event α) (b : Block α) : Block α := { b with evOut := b.evOut ++ [e] }

/-- Append events to the output stream, in order (R41). -/
def emitAll (es : List (Event α)) (b : Block α) : Block α := { b with evOut := b.evOut ++ es }

/-- `RES0 <- x; RES1 <- y` (R20). -/
def writeRes (x y : α) (b : Block α) : Block α := { b with cmd := { b.cmd with res0 := x, res1 := y } }

/-- `RES0 <- x` (R20). -/
def writeRes0 (x : α) (b : Block α) : Block α := { b with cmd := { b.cmd with res0 := x } }

/-- `RESI <- v` (R20). -/
def writeResi (v : Word) (b : Block α) : Block α := { b with cmd := { b.cmd with resi := v } }

/-- `OPA`, `OPB` as the host writes them with a command: a register it supplies no operand for keeps
its value (R20; log entry 10). -/
def writeOperands (x y : Option α) (b : Block α) : Block α :=
  { b with cmd := { b.cmd with opa := x.or b.cmd.opa, opb := y.or b.cmd.opb } }

/-- `nco_h <- o`. -/
def setNcoH (o : Osc α) (b : Block α) : Block α := { b with ncoH := o }

/-- The conditions of R382 that are recorded at the level of the block. -/
inductive Condition where
  | configFatal
  | illegalCommand
  | nanSample
deriving DecidableEq, Repr

/-- `raise <Condition>`: the whole effect of a condition (R390). ConfigFatal sets the mode and emits
`FATAL_CONFIG` (R381); IllegalCommand sets `err_cmd` and writes `RESI` (R96); NanSample sets `err_nan`
(R384). -/
def raise (c : Condition) (b : Block α) : Block α :=
  match c with
  | .configFatal => emit .fatalConfig { b with sys := { b.sys with mode := .fatal } }
  | .illegalCommand => writeResi 0xFFFFFFFF#32 { b with sys := { b.sys with errCmd := true } }
  | .nanSample => { b with sys := { b.sys with errNan := true } }

/-- What a channel does in one operation: the channel after it and the events it emits, in order. -/
structure Tracked (α : Type) where
  ch : Channel α
  evs : List (Event α)
deriving DecidableEq, Repr

/-- An operation that emits nothing. -/
def quiet (c : Channel α) : Tracked α := ⟨c, []⟩

/-- One channel operation after another, their events in order. -/
def Tracked.andThen (t : Tracked α) (f : Channel α → Tracked α) : Tracked α :=
  ⟨(f t.ch).ch, t.evs ++ (f t.ch).evs⟩

/-- A channel operation on every slot, satellites `s`, `s + 1`, … ascending; the events of one slot
before those of the next (R389). -/
def forSlots (f : Nat → Channel α → Tracked α) : Nat → List (Channel α) → List (Channel α) × List (Event α)
  | _, [] => ([], [])
  | s, c :: cs => ((f s c).ch :: (forSlots f (s + 1) cs).1, (f s c).evs ++ (forSlots f (s + 1) cs).2)

/-- A channel operation on the 32 slots of the block, satellite 1 first. -/
def onSlots (f : Nat → Channel α → Tracked α) (b : Block α) : Block α :=
  emitAll (forSlots f 1 b.ch).2 { b with ch := (forSlots f 1 b.ch).1 }

/-- Every memory space has the length R60 gives it: spaces are dense lists, element `i` at position
`i`, so equal memories are equal data. The code tables are asked for only in mode RUN (R381). -/
def Memory.wf (b : Block α) : Bool :=
  b.sys.blk.length == b.cfg.n
    && b.acq.buf.length == b.cfg.captureLen
    && b.acq.bestRatio.length == nSat && b.acq.bestFreq.length == nSat
    && b.ch.length == nSat
    && b.ch.all (fun c =>
      c.buf.length == b.cfg.n && c.ma.length == faMaLen && c.pllErr.length == pllBlock
        && c.sf.length == sfWords && c.frame.length == frameSf
        && c.frame.all (fun f => f.length == sfWords)
        && c.frameHave.length == frameSf && c.frameMeta.length == frameSf)
    && (b.sys.mode == .fatal
      || (b.cg.code.length == nSat && b.cg.code.all (fun k => k.length == codeLen)
        && b.cg.spec.length == nSat && b.cg.spec.all (fun z => z.length == b.cfg.n)))

end Sys2Proof.Machine
end

