-- ==== Sys2Proof/Machine/Reset.lean ====
section
/-! DEFINITION. Reset: the reset sequence of 70_reset_and_hazards.md rule R420. -/

namespace Sys2Proof.Machine

variable {α : Type} (num : Numerics α)

/-- Reset with configuration `cfg` (R420, R43). A sample rate that is not a whole multiple of the chip
rate raises ConfigFatal and builds no code table (R381); the fields that R43 leaves unspecified then
hold the values they have in RUN (log entry 9). The draw counter is the model's and goes on, so that
no draw is taken twice (log entry 5). -/
def blockReset (cfg : Cfg) (draws : Nat) : Block α :=
  if cfg.chipAligned then blockWith num cfg draws (codeTables num cfg)
  else raise .configFatal (blockWith num cfg draws codeTablesNone)

end Sys2Proof.Machine
end

