-- ==== Sys2Proof/Machine/State.lean ====
section
/-! DEFINITION. State: the machine's state, its faults and refusals, and the state after reset. -/

namespace Sys2Proof.Machine

/-- The machine's state: every piece of state of the block (`Block`: `cfg`, `sys`, `cmd`, `ncoH`,
`cg`, `acq`, `ch`, `evOut` of 10_state.md, and the model's draw counter), its `Num` values held as
codes, and the MODEL's own command port: what the host has issued and the block has not yet accepted,
oldest first (R90; log entry 7). -/
structure State extends Block NumVal where
  /-- The commands and resets still to be accepted, in issue order (R71). -/
  port : List (PortEvent NumVal)
deriving DecidableEq, Repr

/-- What stops the machine with a fault: nothing does. Every condition of 60_exceptions.md leaves a
flag or an event and goes on (R382, R390), and R385 lists the would-be faults that cannot arise. -/
inductive Fault
deriving DecidableEq, Repr

/-- An operand register of the command port (R20). -/
inductive Operand where
  | opa
  | opb
deriving DecidableEq, Repr

/-- What the model refuses to give a meaning to. -/
inductive Refusal where
  /-- Raised by no arm of `exec`: every command is modelled. Safe. -/
  | notModelled (mnemonic : String)
  /-- Raised by `NCO.SETF`, `NCO.ADDF`, `NCO.ADVP` and `SAMPLE` when the operand they read holds no
  value: "a command that reads an operand the host has not supplied has no meaning; a model refuses
  it" (R20). Safe: the machine stops where the spec gives no meaning. -/
  | operandMissing (which : Operand)
  /-- Raised by a reset whose parameters are outside their types: "not a configuration of this block
  and the model refuses it" (R381, decision D50). Safe: the machine stops where the spec says so. -/
  | configOutOfType
  /-- Raised by a `SAMPLE` that would be consumed after `err_nan` has been set: from that point the
  stream is "outside the specification" and a model is to "refuse to conclude anything" (R384, decision
  D38, U2). Safe: the machine stops where the spec makes no claim. -/
  | streamViolated
deriving DecidableEq, Repr

/-- The machine right after reset (R43), with the configuration `Config.cfg` and nothing on the port. -/
def State.reset : State := { toBlock := blockReset Config.num Config.cfg 0, port := [] }

/-- The outcome of an operation on the block. -/
abbrev BlockOutcome (α : Type) := Host.Outcome (Block α) Fault Refusal

/-- The outcome of an operation on the machine. -/
abbrev StateOutcome := Host.Outcome State Fault Refusal

end Sys2Proof.Machine
end

