-- ==== Sys2Proof/Machine/Control.lean ====
section
/-! DEFINITION. Control: the checks that stand before a command's effect, in the order of
60_exceptions.md rule R387, and an operation on the block as one on the machine. -/

namespace Sys2Proof.Machine

variable {α : Type}

/-- In FATAL mode every command "is accepted and does nothing" (R90, R381); R387 tests it first. -/
def whenRunning (k : Block α → BlockOutcome α) (b : Block α) : BlockOutcome α :=
  match b.sys.mode with
  | .fatal => .next b
  | .run => k b

/-- A command that raises IllegalCommand when `legal` is false (R96, R387), else goes on. -/
def whenLegal (legal : Bool) (k : Block α → BlockOutcome α) (b : Block α) : BlockOutcome α :=
  if legal then k b else .next (raise .illegalCommand b)

/-- A sample that would be consumed (`consumed`) after a sample that was not a number: the stream is
outside the specification and the model refuses to go on with it (R384, decision D38). -/
def whenStreamIntact (consumed : Bool) (k : Block α → BlockOutcome α) (b : Block α) : BlockOutcome α :=
  if consumed && b.sys.errNan then .refused .streamViolated else k b

/-- An operation on the block as an operation on the machine: the port is not touched. -/
def onBlock (f : Block NumVal → BlockOutcome NumVal) (s : State) : StateOutcome :=
  match f s.toBlock with
  | .next b => .next { s with toBlock := b }
  | .fault r => .fault r
  | .refused r => .refused r

end Sys2Proof.Machine
end

