-- ==== Sys2Proof/Machine/Operands.lean ====
section
/-! DEFINITION. Operands: the operand forms of the commands: fields `A` and `B` of the word
(30_encoding.md rules R91, R92) and the operand registers `OPA`, `OPB` (10_state.md rule R20). -/

namespace Sys2Proof.Machine

/-- The satellite id of field `A`: the number itself (R91, R106). -/
def satOf (a : BitVec 8) : Nat := a.toNat

/-- The index of field `B`: the number itself, from 0 (R91). -/
def indexOf (b : BitVec 16) : Nat := b.toNat

/-- `1 ≤ A ≤ 32` (R92). -/
def satLegal (a : BitVec 8) : Bool := 1 ≤ satOf a && satOf a ≤ nSat

/-- `1 ≤ A ≤ 32 and B ≤ 1022`, `CG.CHIP` (R92, R152). -/
def chipLegal (a : BitVec 8) (b : BitVec 16) : Bool := satLegal a && indexOf b ≤ 1022

/-- `1 ≤ A ≤ 32 and B ≤ N − 1`, `CG.SPEC` (R92, R153). -/
def binLegal (cfg : Cfg) (a : BitVec 8) (b : BitVec 16) : Bool := satLegal a && indexOf b < cfg.n

variable {α : Type} (num : Numerics α)

/-- A command that reads `OPA`; the model refuses it when the register holds no value (R20). -/
def withOpa (k : α → Block α → BlockOutcome α) (b : Block α) : BlockOutcome α :=
  match b.cmd.opa with
  | none => .refused (.operandMissing .opa)
  | some x => k x b

/-- A command that reads `OPA` and `OPB`; the model refuses it when either holds no value (R20). -/
def withOperands (k : α → α → Block α → BlockOutcome α) (b : Block α) : BlockOutcome α :=
  match b.cmd.opa, b.cmd.opb with
  | none, _ => .refused (.operandMissing .opa)
  | some _, none => .refused (.operandMissing .opb)
  | some x, some y => k x y b

/-- Both operands of a `SAMPLE` are numbers (R341, R384). -/
def sampleIsNumber (x y : α) : Bool := num.isNumber x && num.isNumber y

end Sys2Proof.Machine
end

