-- ==== Sys2Proof/Machine/CodeCommands.lean ====
section
/-! DEFINITION. CodeCommands: `CG.CHIP` and `CG.SPEC`, 41_codegen.md rules R152, R153. -/

namespace Sys2Proof.Machine

variable {α : Type} (num : Numerics α)

/-- `zext_32` of a chip. -/
def chipWord (c : Bool) : Word := if c then 1 else 0

/-- `CG.CHIP sat, idx`: one chip into `RESI`; a bad field is an illegal command (R152). -/
def doCgChip (sat : BitVec 8) (idx : BitVec 16) : Block α → BlockOutcome α :=
  whenRunning (whenLegal (chipLegal sat idx) fun b =>
    .next (writeResi (chipWord (memRead false (codeOf b (satOf sat)) (indexOf idx))) b))

/-- `CG.SPEC sat, bin`: one spectrum bin into `RES0`, `RES1`; a bad field is an illegal command
(R153). -/
def doCgSpec (sat : BitVec 8) (bin : BitVec 16) : Block α → BlockOutcome α :=
  whenRunning fun b0 => whenLegal (binLegal b0.cfg sat bin) (fun b =>
    let v := memRead num.czero (spectrumOf b (satOf sat)) (indexOf bin)
    .next (writeRes v.re v.im b)) b0

/-- `CG.CHIP` (R152). -/
def execCgChip (sat : BitVec 8) (idx : BitVec 16) (s : State) : StateOutcome :=
  onBlock (doCgChip sat idx) s

/-- `CG.SPEC` (R153). -/
def execCgSpec (sat : BitVec 8) (bin : BitVec 16) (s : State) : StateOutcome :=
  onBlock (doCgSpec Config.num sat bin) s

end Sys2Proof.Machine
end

