-- ==== Sys2Proof/Machine/NcoCommands.lean ====
section
/-! DEFINITION. NcoCommands: `NCO.EVAL`, `NCO.SETF`, `NCO.ADDF`, `NCO.ADVP` on the host oscillator
`nco_h`, 40_nco.md. Each command is given over any `NUM`, then on the machine. -/

namespace Sys2Proof.Machine

variable {α : Type} (num : Numerics α)

/-- `NCO.EVAL`: `RES0`, `RES1` get the sample before the advance (R121). -/
def doNcoEval : Block α → BlockOutcome α :=
  whenRunning fun b =>
    .next (setNcoH (oscAdvance num b.ncoH) (writeRes (oscOut num b.ncoH).re (oscOut num b.ncoH).im b))

/-- `NCO.SETF`, `OPA` in hertz (R122). -/
def doNcoSetf : Block α → BlockOutcome α :=
  whenRunning (withOpa fun f b => .next (setNcoH (oscSetFrequency num b.cfg f b.ncoH) b))

/-- `NCO.ADDF`, `OPA` in hertz (R123). -/
def doNcoAddf : Block α → BlockOutcome α :=
  whenRunning (withOpa fun df b => .next (setNcoH (oscAddFrequency num b.cfg df b.ncoH) b))

/-- `NCO.ADVP`, `OPA` in radians (R124). -/
def doNcoAdvp : Block α → BlockOutcome α :=
  whenRunning (withOpa fun dtheta b => .next (setNcoH (oscAdvancePhase num dtheta b.ncoH) b))

/-- `NCO.EVAL` (R121). -/
def execNcoEval (s : State) : StateOutcome := onBlock (doNcoEval Config.num) s

/-- `NCO.SETF` (R122). -/
def execNcoSetf (s : State) : StateOutcome := onBlock (doNcoSetf Config.num) s

/-- `NCO.ADDF` (R123). -/
def execNcoAddf (s : State) : StateOutcome := onBlock (doNcoAddf Config.num) s

/-- `NCO.ADVP` (R124). -/
def execNcoAdvp (s : State) : StateOutcome := onBlock (doNcoAdvp Config.num) s

end Sys2Proof.Machine
end

