-- ==== Sys2Proof/Machine/Acquisition.lean ====
section
/-! DEFINITION. Acquisition: capture, sweep, report and promotion, 43_acquisition.md. -/

namespace Sys2Proof.Machine

variable {α : Type} (num : Numerics α)

/-- The trigger: an idle engine whose timer has expired begins a capture (R191). -/
def acqTrigger (cfg : Cfg) (a : AcqEngine α) : AcqEngine α :=
  if a.state = .idle ∧ cfg.trigSamples ≤ a.timer then { a with state := .collecting, fill := 0, timer := 0 }
  else a

/-- The capture write (R192). -/
def acqCapture (x : Cx α) (a : AcqEngine α) : AcqEngine α :=
  if a.state = .collecting then { a with buf := memWrite a.buf a.fill x, fill := a.fill + 1 } else a

/-- A full capture goes to the sweep worker (R193). -/
def acqComplete (cfg : Cfg) (a : AcqEngine α) : AcqEngine α :=
  if a.state = .collecting ∧ a.fill = cfg.captureLen then { a with state := .searching, wait := 0 } else a

/-- `ACQ.FEED x`: trigger, capture, completion, and the timer's count (R190). -/
def acqFeed (cfg : Cfg) (x : Cx α) (a : AcqEngine α) : AcqEngine α :=
  let a1 := acqComplete cfg (acqCapture x (acqTrigger cfg a))
  { a1 with timer := a1.timer + 1 }

/-- The trial oscillator of a hypothesis: newly created, then set to `f_h` (R195). -/
def trialOsc (cfg : Cfg) (h : Nat) : Osc α :=
  oscSetFrequency num cfg (num.ofInt (cfg.hypothesis h)) (oscNew num)

/-- The capture down-converted for a hypothesis, and the oscillator after it (R195). -/
def downConvert (cfg : Cfg) (capture : List (Cx α)) (h : Nat) : List (Cx α) × Osc α :=
  mixAll num (trialOsc num cfg h) capture

/-- Epoch `e` of a capture (R192). -/
def epoch (cfg : Cfg) (d : List (Cx α)) (e : Nat) : List (Cx α) := (d.drop (e * cfg.n)).take cfg.n

/-- The correlation magnitudes accumulated over the epochs, for one hypothesis and one satellite
(R196, R197). -/
def accumulate (cfg : Cfg) (spec d : List (Cx α)) : List α :=
  (List.range cfg.nEpochs).foldl
    (fun acc e => List.zipWith num.add acc ((corr num cfg.n spec (epoch cfg d e)).map num.mag))
    (List.replicate cfg.n num.zero)

/-- The mean over all lags, `(1/N)·Σ acc[m]` (R198). -/
def accMean (n : Nat) (acc : List α) : α := num.mul (num.div num.one (num.ofNat n)) (num.sum acc)

/-- `ratio(acc)`: peak magnitude over mean magnitude when the mean is above 0; 0 when the mean is 0
(R198), that is neither above nor below 0, a mean that `<` does not compare with 0 included (log entry 13).
R198 gives no ratio for a mean below 0: a free value (DESIGN CHOICE, log entry 18). -/
def accRatio (n : Nat) (acc : List α) : α :=
  let mean := accMean num n acc
  if num.lt num.zero mean then num.div (num.maximum acc) mean
  else if num.lt mean num.zero then num.unstatedRatio acc
  else num.zero

/-- The best hypothesis so far for one satellite: `best_ratio`, `best_freq`, `have` (R196). -/
structure Best (α : Type) where
  ratio : α
  freq : α
  have' : Bool
deriving DecidableEq, Repr

/-- One hypothesis of the sweep for one satellite: the first maximum wins (R196, R200). -/
def bestStep (cfg : Cfg) (spec capture : List (Cx α)) (best : Best α) (h : Nat) : Best α :=
  let r := accRatio num cfg.n (accumulate num cfg spec (downConvert num cfg capture h).1)
  if !best.have' || num.lt best.ratio r then ⟨r, num.ofInt (cfg.hypothesis h), true⟩ else best

/-- The sweep for one satellite, hypotheses in increasing `h` (R194, R196). -/
def sweepSat (cfg : Cfg) (spec capture : List (Cx α)) : Best α :=
  (List.range cfg.hypotheses).foldl (bestStep num cfg spec capture) ⟨num.zero, num.zero, false⟩

/-- The best hypotheses of the 32 satellites, ascending (R196). -/
def sweepAll (b : Block α) : List (Best α) :=
  (List.range nSat).map fun i => sweepSat num b.cfg (spectrumOf b (i + 1)) b.acq.buf

/-- The satellites whose best ratio is at least 3.0, ascending, the first of the list being satellite
`s` (R196, R199). -/
def foundFrom (s : Nat) : List (Best α) → List (Found α)
  | [] => []
  | x :: xs =>
    if num.le num.ratioMin x.ratio then ⟨s, x.ratio, x.freq⟩ :: foundFrom (s + 1) xs
    else foundFrom (s + 1) xs

/-- `ACQ.SWEEP`: the whole sweep (R196). The trial oscillator is left as the last hypothesis leaves it
(R195). -/
def acqSweep (b : Block α) : Block α :=
  let best := sweepAll num b
  { b with
    acq :=
      { b.acq with
        nco := (downConvert num b.cfg b.acq.buf (b.cfg.hypotheses - 1)).2
        bestRatio := best.map fun x => x.ratio
        bestFreq := best.map fun x => x.freq
        found := foundFrom num 1 best
        state := .resultsReady } }

/-- After `n` draws of R201: how many answered "done", and how many answered "not done" since the last
that did. -/
def drawTally : Nat → Nat × Nat
  | 0 => (0, 0)
  | n + 1 =>
    let t := drawTally n
    if Config.notDoneDraws t.1 ≤ t.2 then (t.1 + 1, 0) else (t.1, t.2 + 1)

/-- R201's `draw done : Bool`, draw number `n` from 0, when `SWEEP_LATENCY` is `none`: free, and fair as
R201 asks, since every run of "not done" has a finite free length (log entry 5). -/
def sweepDone (n : Nat) : Bool := Config.notDoneDraws (drawTally n).1 ≤ (drawTally n).2

/-- Whether the sweep has completed at this poll: at `SWEEP_LATENCY` block boundaries, or by a free
draw (R201). -/
def sweepComplete (b : Block α) : Bool :=
  match b.cfg.sweepLatency with
  | some l => l ≤ b.acq.wait
  | none => sweepDone b.draws

/-- The draw counter after a poll: one draw is taken when `SWEEP_LATENCY` is `none` (R201). -/
def drawsAfter (b : Block α) : Nat :=
  match b.cfg.sweepLatency with
  | some _ => b.draws
  | none => b.draws + 1

/-- The poll of a sweep in flight: the sweep, if it has completed, else one more block boundary waited
(R201). -/
def pollSweep (b : Block α) : Block α :=
  let b1 := { b with draws := drawsAfter b }
  if sweepComplete b then acqSweep num b1 else { b1 with acq := { b1.acq with wait := b1.acq.wait + 1 } }

/-- The channel that a promotion creates: every field at its creation value, the oscillator at the
reported frequency, phase 0 (R203). -/
def channelPromoted (cfg : Cfg) (f : α) : Channel α :=
  { channelNew num cfg with
    nco := oscSetFrequency num cfg f (oscNew num)
    active := true
    alive := true
    state := .offsetAcquire }

/-- `ACQ.PROMOTE s, f` (R203). -/
def acqPromote (s : Nat) (f : α) (b : Block α) : Block α :=
  emit (.satAdd s) (setChannel s (channelPromoted num b.cfg f) b)

/-- The report of one found satellite: `ACQ_RESULT`, and its promotion if its slot is inactive (R202). -/
def reportOne (b : Block α) (x : Found α) : Block α :=
  let promoted := !(channelAt num b x.sat).active
  let b1 := emit (.acqResult x.sat promoted x.ratio x.freq) b
  if promoted then acqPromote num x.sat x.freq b1 else b1

/-- The report of a completed sweep: `ACQ_DONE`, each found satellite ascending, then `IDLE` (R202). -/
def acqReport (b : Block α) : Block α :=
  let b1 := b.acq.found.foldl (reportOne num) (emit (.acqDone b.acq.found.length) b)
  { b1 with acq := { b1.acq with state := .idle } }

/-- `ACQ.POLL` (R202). -/
def acqPoll (b : Block α) : Block α :=
  let b1 := if b.acq.state = .searching then pollSweep num b else b
  if b1.acq.state = .resultsReady then acqReport num b1 else b1

end Sys2Proof.Machine
end

