-- ==== Sys2Proof/Machine/Transitions.lean ====
section
/-! DEFINITION. Transitions: `goto`, the one way a channel's lock state changes, 45_tracking_fsm.md
rules R251, R252, R275. -/

namespace Sys2Proof.Machine

variable {α : Type} (num : Numerics α)

/-- Entry actions of a lock state, performed after the state is written (R252); `old` is the state
left. -/
def entryActions (old new : LockState) (c : Channel α) : Channel α :=
  match new with
  | .offsetAcquire => c
  | .frequencyAcquire => { c with faHavePrev := false, faSum := num.zero, faN := 0, maN := 0, maPos := 0 }
  | .pllAcquire =>
    { c with pllN := 0, pllMean := num.zero, pllVar := num.zero, iqValid := 0, iqInvalid := 0 }
  | .bitAcquire => { c with bsHavePrev := false, bitSum := 0, bitCnt := 0 }
  | .preambleAcquire =>
    { c with wreg := 0, wbits := 0, polarity := if old = .bitAcquire then .pos else c.polarity }
  | .subframeAcquire => c
  | .signalLost => { c with alive := false }

/-- `goto(s, new, cause)`: emit `STATE`, write the state, perform the entry actions (R251). -/
def goto (s : Nat) (new : LockState) (cause : Cause) (c : Channel α) : Tracked α :=
  ⟨entryActions num c.state new { c with state := new }, [.stateChange s c.state new cause]⟩

end Sys2Proof.Machine
end

