-- ==== Sys2Proof/Machine/Navigation.lean ====
section
/-! DEFINITION. Navigation: word parity, the preamble search and the subframe assembly, 46_bits_nav.md. -/

namespace Sys2Proof.Machine

/-- The source data bits `d1..d24` of a received word: its data bits, de-complemented if the previous
word's `D30` is set (R309). -/
def dataBits (w : NavWord) (p30 : Bool) : BitVec 24 :=
  w.extractLsb' 6 24 ^^^ (if p30 then 0xFFFFFF#24 else 0#24)

/-- Source data bit `d_b`, `b` in 1..24: the first is the most significant (R302, R105). -/
def dataBit (d : BitVec 24) (b : Nat) : Bool := d.getLsbD (24 - b)

/-- The exclusive or of `init` and the data bits a list names. -/
def parityOver (d : BitVec 24) (init : Bool) (bits : List Nat) : Bool :=
  bits.foldl (fun x b => x ^^ dataBit d b) init

/-- The six parity bits `D25..D30`, `D25` most significant (R302). -/
def parityBits (d : BitVec 24) (p29 p30 : Bool) : BitVec 6 :=
  BitVec.ofBool (parityOver d p29 [1, 2, 3, 5, 6, 10, 11, 12, 13, 14, 17, 18, 20, 23])
    ++ BitVec.ofBool (parityOver d p30 [2, 3, 4, 6, 7, 11, 12, 13, 14, 15, 18, 19, 21, 24])
    ++ BitVec.ofBool (parityOver d p29 [1, 3, 4, 5, 7, 8, 12, 13, 14, 15, 16, 19, 20, 22])
    ++ BitVec.ofBool (parityOver d p30 [2, 4, 5, 6, 8, 9, 13, 14, 15, 16, 17, 20, 21, 23])
    ++ BitVec.ofBool (parityOver d p30 [1, 3, 5, 6, 7, 9, 10, 14, 15, 16, 17, 18, 21, 22, 24])
    ++ BitVec.ofBool (parityOver d p29 [3, 5, 6, 8, 9, 10, 11, 13, 15, 19, 22, 23, 24])

/-- `word_validate(w, p29, p30)`: the parity recomputed and compared (R309). -/
def wordValidate (w : NavWord) (p29 p30 : Bool) : Bool :=
  parityBits (dataBits w p30) p29 p30 == w.extractLsb' 0 6

/-- `word_encode(d, p29, p30)`: the transmitted word of source data bits `d` (R312). The block never
encodes; statements about words do. -/
def wordEncode (d : BitVec 24) (p29 p30 : Bool) : NavWord :=
  (d ^^^ (if p30 then 0xFFFFFF#24 else 0#24)) ++ parityBits d p29 p30

/-- `tlm_ok(v)`: the preamble in nav bits 1 to 8, and parity with previous bits 0, 0 (R304). -/
def tlmOk (v : NavWord) : Bool := v.extractLsb' 22 8 == preamble && wordValidate v false false

/-- The new bit shifted into a word, "mask to word width" (R303, R105). -/
def shiftIn (w : NavWord) (bit : Bool) : NavWord := w.extractLsb' 0 29 ++ BitVec.ofBool bit

/-- Bit `p` of a word set to `bit`, the others kept (R310). -/
def putBit (w : NavWord) (p : Nat) (bit : Bool) : NavWord :=
  (w &&& ~~~(1#30 <<< p)) ||| ((BitVec.ofBool bit).setWidth 30 <<< p)

variable {α : Type} (num : Numerics α)

/-- A match of the preamble test: the polarity, inverted if the complement matched (R305); the seed of
word 1 (R308); the step to `SUBFRAME_ACQUIRE` (R306). -/
def preambleMatch (s : Nat) (v : NavWord) (inverted : Bool) (c : Channel α) : Tracked α :=
  goto num s .subframeAcquire .advance
    { c with
      polarity := if inverted then c.polarity.flip else c.polarity
      sf := memWrite c.sf 0 v
      sfBits := wordBits }

/-- The preamble test on a register that holds 30 bits: the word, else its complement, else nothing
(R303, R307). -/
def preambleTest (s : Nat) (c : Channel α) : Tracked α :=
  if tlmOk c.wreg then preambleMatch num s c.wreg false c
  else if tlmOk (~~~c.wreg) then preambleMatch num s (~~~c.wreg) true c
  else quiet c

/-- One bit in `PREAMBLE_ACQUIRE` (R303). -/
def preambleBit (s : Nat) (bit : Bool) (c : Channel α) : Tracked α :=
  let c1 := { c with wreg := shiftIn c.wreg bit, wbits := min (c.wbits + 1) wordBits }
  if c1.wbits = wordBits then preambleTest num s c1 else quiet c1

/-- The result of the chained validation: the last two bits carried, and the first failing word. -/
structure ChainResult where
  d29 : Bool
  d30 : Bool
  failed : Option Nat
deriving DecidableEq, Repr

/-- Chained validation of the words from word `i` on, `D29*`, `D30*` carried forward as received; it
stops at the first word that fails (R314). -/
def chainValidate (i : Nat) (p29 p30 : Bool) : List NavWord → ChainResult
  | [] => ⟨p29, p30, none⟩
  | w :: ws =>
    if wordValidate w p29 p30 then chainValidate (i + 1) (w.getLsbD 1) (w.getLsbD 0) ws
    else ⟨p29, p30, some i⟩

/-- Rejection of a subframe (R316). -/
def rejectSubframe (s idx : Nat) (c : Channel α) : Tracked α :=
  Tracked.andThen ⟨c, [.parityFail s idx]⟩ (goto num s .signalLost .parity)

/-- The TLM word of the assembled subframe, `sf[1]`. -/
def tlmWord (c : Channel α) : NavWord := memRead 0 c.sf 0

/-- The HOW word's data bits, de-complemented with the TLM word's last bit (R317). -/
def howData (c : Channel α) : BitVec 24 := dataBits (memRead 0 c.sf 1) ((tlmWord c).getLsbD 0)

/-- The subframe id, bits 20 to 22 of the HOW word (R317). -/
def subframeId (c : Channel α) : BitVec 3 := (howData c).extractLsb' 2 3

/-- The metadata record of the assembled subframe (R317). -/
def subframeMeta (c : Channel α) : SubframeMeta where
  tlmMsg := (tlmWord c).extractLsb' 8 14
  integrity := (tlmWord c).getLsbD 7
  tow := (howData c).extractLsb' 7 17
  alert := (howData c).getLsbD 6
  antispoof := (howData c).getLsbD 5

/-- `1 ≤ id ≤ 5` (R318). -/
def idStored (id : BitVec 3) : Bool := 1 ≤ id.toNat && id.toNat ≤ frameSf

/-- Store an accepted subframe at its id (R320). -/
def storeSubframe (c : Channel α) : Channel α :=
  let id := (subframeId c).toNat
  { c with
    frame := memWrite c.frame (id - 1) c.sf
    frameHave := memWrite c.frameHave (id - 1) true
    frameMeta := memWrite c.frameMeta (id - 1) (subframeMeta c)
    sf1Seen := c.sf1Seen || id == 1 }

/-- What R319 or R320 does with an accepted subframe: nothing when the id is outside 1..5, else the
store and, after subframe 5 once subframe 1 has been seen, `FRAME_READY` (R322). -/
def keepSubframe (s : Nat) (c : Channel α) : Tracked α :=
  if idStored (subframeId c) then
    ⟨storeSubframe c,
      if (subframeId c).toNat = 5 ∧ (storeSubframe c).sf1Seen = true then [.frameReady s] else []⟩
  else quiet c

/-- An accepted subframe: report it (R318), keep it (R319, R320), return to `PREAMBLE_ACQUIRE` (R321). -/
def acceptSubframe (s : Nat) (c : Channel α) : Tracked α :=
  let report : Tracked α :=
    ⟨c, [.subframe s (idStored (subframeId c)) (subframeId c) c.sf (subframeMeta c)]⟩
  (report.andThen (keepSubframe s)).andThen fun c1 =>
    goto num s .preambleAcquire .subframeDone { c1 with sfBits := 0 }

/-- Validation of a complete subframe: reject at the first failing word, or with index 11 when the last
word's `D29`, `D30` are not both zero, else accept (R314). -/
def validateSubframe (s : Nat) (c : Channel α) : Tracked α :=
  let r := chainValidate 1 false false c.sf
  let c1 := { c with d29 := r.d29, d30 := r.d30 }
  match r.failed with
  | some idx => rejectSubframe num s idx c1
  | none => if r.d29 || r.d30 then rejectSubframe num s 11 c1 else acceptSubframe num s c1

/-- The subframe buffer with bit number `k` placed: word `1 + k div 30`, bit `29 − k mod 30`, the word
cleared first when the bit is its first (R310). -/
def placeBit (sf : List NavWord) (k : Nat) (bit : Bool) : List NavWord :=
  let i := k / wordBits
  let old := if k % wordBits = 0 then 0#30 else memRead 0 sf i
  memWrite sf i (putBit old (29 - k % wordBits) bit)

/-- One bit in `SUBFRAME_ACQUIRE` (R310). -/
def subframeBit (s : Nat) (bit : Bool) (c : Channel α) : Tracked α :=
  let c1 := { c with sf := placeBit c.sf c.sfBits bit, sfBits := c.sfBits + 1 }
  if c1.sfBits = sfWords * wordBits then validateSubframe num s c1 else quiet c1

/-- `CH.BIT s, b`: one navigation bit into the bit register (R300). It is called in
`PREAMBLE_ACQUIRE` and `SUBFRAME_ACQUIRE` only. -/
def chBit (s : Nat) (bit : Bool) (c : Channel α) : Tracked α :=
  match c.state with
  | .preambleAcquire => preambleBit num s bit c
  | .subframeAcquire => subframeBit num s bit c
  | .offsetAcquire => quiet c
  | .frequencyAcquire => quiet c
  | .pllAcquire => quiet c
  | .bitAcquire => quiet c
  | .signalLost => quiet c

end Sys2Proof.Machine
end

