-- ==== Sys2Proof/Machine/Tracking.lean ====
section
/-! DEFINITION. Tracking: the lock state machine, the carrier loops and the bit synchronisation,
45_tracking_fsm.md. -/

namespace Sys2Proof.Machine

variable {α : Type} (num : Numerics α) (cfg : Cfg)

/-- `OFFSET_ACQUIRE`: ten consecutive valid offsets advance, ten consecutive invalid ones lose the
signal; the measured offset is kept (R253). -/
def offsetStage (s : Nat) (offOk : Bool) (c : Channel α) : Tracked α :=
  if offOk then
    let c1 := { c with offValid := c.offValid + 1, offInvalid := 0 }
    if c1.offValid = offValidN then goto num s .frequencyAcquire .advance c1 else quiet c1
  else
    let c1 := { c with offInvalid := c.offInvalid + 1, offValid := 0 }
    if c1.offInvalid = offInvalidN then goto num s .signalLost .offsetInvalid c1 else quiet c1

/-- An invalid offset in a later state: counted; the tenth in a row loses the signal, any other zeroes
the offset for this period (R254). -/
def offsetInvalidLater (s : Nat) (c : Channel α) : Tracked α :=
  let c1 := { c with offInvalid := c.offInvalid + 1 }
  if c1.offInvalid = offInvalidN then goto num s .signalLost .offsetInvalid c1
  else quiet { c1 with codeOff := 0 }

/-- The frequency of an accumulated phase over `k` periods, `−Δθ_sum/(2π·T_PERIOD·k)` in hertz
(R260, R261). -/
def frequencyEstimate (sum : α) (k : Nat) : α :=
  num.div (num.neg sum) (num.mul (num.mul num.twoPi num.tPeriod) (num.ofNat k))

/-- The ring of `MA.push s, v` after the push (R262). -/
def maPush (v : α) (c : Channel α) : Channel α :=
  { c with
    ma := memWrite c.ma c.maPos v
    maPos := (c.maPos + 1) % faMaLen
    maN := min (c.maN + 1) faMaLen }

/-- The average that `MA.push` returns, over the estimates present (R262). -/
def maAverage (c : Channel α) : α := num.div (num.sum (c.ma.take c.maN)) (num.ofNat c.maN)

/-- An outlier delta: what had accumulated is applied as a correction and the accumulator is reset
(R260). -/
def outlier (c : Channel α) : Channel α :=
  { c with
    nco := if 0 < c.faN then oscAddFrequency num cfg (frequencyEstimate num c.faSum c.faN) c.nco else c.nco
    faSum := num.zero
    faN := 0 }

/-- The estimate at the 20th accumulated delta: the raw one corrects the oscillator, the averaged one
decides the lock (R261, R263). -/
def estimate (s : Nat) (c : Channel α) : Tracked α :=
  let fEst := frequencyEstimate num c.faSum faPeriods
  let c1 := maPush fEst c
  let c2 := { c1 with nco := oscAddFrequency num cfg fEst c1.nco, faSum := num.zero, faN := 0 }
  if num.lt (num.abs (maAverage num c1)) num.faLock then goto num s .pllAcquire .advance c2 else quiet c2

/-- A wrapped phase delta: accumulated, or an outlier (R256). -/
def frequencyDelta (s : Nat) (delta : α) (c : Channel α) : Tracked α :=
  if num.lt (num.abs delta) num.faOutlier then
    let c1 := { c with faSum := num.add c.faSum delta, faN := c.faN + 1 }
    if c1.faN = faPeriods then estimate num cfg s c1 else quiet c1
  else quiet (outlier num cfg c)

/-- `FREQUENCY_ACQUIRE`: the first period only records its angle (R257); every later one gives the
delta `wrappi(θ − fa_prev)` (R256, R258), the angle recorded whatever the delta (R259). -/
def frequencyStage (s : Nat) (peak : Cx α) (c : Channel α) : Tracked α :=
  let theta := num.arg peak
  if c.faHavePrev then
    frequencyDelta num cfg s (num.wrappi (num.sub theta c.faPrev)) { c with faPrev := theta }
  else quiet { c with faPrev := theta, faHavePrev := true }

/-- The Costas discriminator (R265). -/
def costas (p : Cx α) : α :=
  if num.cIsZero p then num.zero
  else num.div (num.mul (num.mul (num.lit 2 1) p.re) p.im) (num.mag2 p)

/-- The mean of the five buffered errors (R266). -/
def pllMeanOf (errs : List α) : α := num.div (num.sum errs) (num.ofNat pllBlock)

/-- The variance of the five buffered errors (R266). -/
def pllVarOf (errs : List α) : α :=
  let m := pllMeanOf num errs
  num.div (num.sum (errs.map fun e => num.mul (num.sub e m) (num.sub e m))) (num.ofNat pllBlock)

/-- The frequency correction of a loop update, `−mean·FREQ_MAX·FREQ_FACTOR` (R266). -/
def pllFrequency (mean : α) : α := num.mul (num.mul (num.neg mean) num.freqMax) num.freqFactor

/-- The phase correction of a loop update, `−mean·PHASE_MAX·PHASE_FACTOR` (R266). -/
def pllPhase (mean : α) : α := num.mul (num.mul (num.neg mean) num.phaseMax) num.phaseFactor

/-- An error into the buffer and, when the buffer fills, the loop update (R266). -/
def pllPush (e : α) (c : Channel α) : Channel α :=
  let c1 := { c with pllErr := memWrite c.pllErr c.pllN e, pllN := c.pllN + 1 }
  if c1.pllN = pllBlock then
    let m := pllMeanOf num c1.pllErr
    { c1 with
      pllMean := m
      pllVar := pllVarOf num c1.pllErr
      nco := oscAdvancePhase num (pllPhase num m) (oscAddFrequency num cfg (pllFrequency num m) c1.nco)
      pllN := 0 }
  else c1

/-- `TRK.PLL s, peak`: the Costas loop (R264). -/
def trkPll (peak : Cx α) (c : Channel α) : Channel α := pllPush num cfg (costas num peak) c

/-- `iq_ok`: the peak's angle, folded, is below π/4 in magnitude (R264, R267). -/
def iqOk (peak : Cx α) : Bool := num.lt (num.abs (num.fold (num.arg peak))) num.iqValidAngle

/-- `PLL_ACQUIRE` lock count: 200 consecutive valid phase checks advance (R268). -/
def pllCount (s : Nat) (ok : Bool) (c : Channel α) : Tracked α :=
  if ok then
    let c1 := { c with iqValid := c.iqValid + 1 }
    if c1.iqValid = pllValidN then goto num s .bitAcquire .advance c1 else quiet c1
  else quiet { c with iqValid := 0 }

/-- Phase-loss count after `PLL_ACQUIRE`: ten consecutive invalid phase checks lose the signal (R269). -/
def iqCount (s : Nat) (ok : Bool) (c : Channel α) : Tracked α :=
  if ok then quiet { c with iqInvalid := 0 }
  else
    let c1 := { c with iqInvalid := c.iqInvalid + 1 }
    if c1.iqInvalid = iqInvalidN then goto num s .signalLost .iqInvalid c1 else quiet c1

/-- `BIT_ACQUIRE`: the first period records its sign; the first change of sign starts the bit window,
of which that period is the first (R270). -/
def bitSyncStage (s : Nat) (peak : Cx α) (c : Channel α) : Tracked α :=
  let sg := num.sgn peak.re
  if c.bsHavePrev then
    let c1 := { c with bsPrev := sg }
    if sg = c.bsPrev then quiet c1
    else (goto num s .preambleAcquire .advance c1).andThen fun c2 =>
      quiet { c2 with bitSum := sg.toInt, bitCnt := 1 }
  else quiet { c with bsPrev := sg, bsHavePrev := true }

/-- Bit synchronisation lost (R272). -/
def bitSyncLost (s : Nat) (c : Channel α) : Tracked α :=
  Tracked.andThen ⟨c, [.bitsyncLost s]⟩ (goto num s .bitAcquire .bitsync)

/-- The bit of a window of sign total `total`: 1 when `total · polarity > 0` (R273). -/
def bitOf (total : Int) (polarity : Sign) : Bool := 0 < total * polarity.toInt

/-- The bit decision: emit `NAV_BIT`, then `CH.BIT` (R273). -/
def bitDecision (s : Nat) (total : Int) (c : Channel α) : Tracked α :=
  Tracked.andThen ⟨c, [.navBit s (bitOf total c.polarity)]⟩ (chBit num s (bitOf total c.polarity))

/-- Bit accumulation in `PREAMBLE_ACQUIRE` and `SUBFRAME_ACQUIRE`: signs summed over 20 periods (R271). -/
def bitStage (s : Nat) (peak : Cx α) (c : Channel α) : Tracked α :=
  let total := c.bitSum + (num.sgn peak.re).toInt
  if c.bitCnt + 1 = bitPeriods then
    let c1 := { c with bitSum := 0, bitCnt := 0 }
    if total = 0 then bitSyncLost num s c1 else bitDecision num s total c1
  else quiet { c with bitSum := total, bitCnt := c.bitCnt + 1 }

/-- A rule that runs only if the channel is still alive (R250, R388). -/
def ifAlive (f : Channel α → Tracked α) (c : Channel α) : Tracked α := if c.alive then f c else quiet c

/-- The rules of a state after `OFFSET_ACQUIRE` for a period whose offset is valid (R250). -/
def validPeriod (s : Nat) (peak : Cx α) (c : Channel α) : Tracked α :=
  match c.state with
  | .frequencyAcquire => frequencyStage num cfg s peak c
  | .pllAcquire => pllCount num s (iqOk num peak) (trkPll num cfg peak c)
  | .bitAcquire =>
    (iqCount num s (iqOk num peak) (trkPll num cfg peak c)).andThen (ifAlive (bitSyncStage num s peak))
  | .preambleAcquire =>
    (iqCount num s (iqOk num peak) (trkPll num cfg peak c)).andThen (ifAlive (bitStage num s peak))
  | .subframeAcquire =>
    (iqCount num s (iqOk num peak) (trkPll num cfg peak c)).andThen (ifAlive (bitStage num s peak))
  | .offsetAcquire => quiet c
  | .signalLost => quiet c

/-- `TRK.STEP s, o, off_ok, peak`: one step of the lock state machine (R250). The offset itself is
already in `code_off` (R226). `SIGNAL_LOST` never gets here (R229). -/
def trkStep (s : Nat) (offOk : Bool) (peak : Cx α) (c : Channel α) : Tracked α :=
  if c.state = .offsetAcquire then offsetStage num s offOk c
  else if c.state = .signalLost then quiet c
  else if offOk then validPeriod num cfg s peak { c with offInvalid := 0 }
  else offsetInvalidLater num s c

end Sys2Proof.Machine
end

