-- ==== Sys2Proof/Machine/FrontEnd.lean ====
section
/-! DEFINITION. FrontEnd: down-conversion, the period buffer and the code feedback,
44_tracking_frontend.md. -/

namespace Sys2Proof.Machine

variable {α : Type} (num : Numerics α) (cfg : Cfg)

/-- The period buffer with its last `k` samples copied to its head (R224). -/
def reuseTail (n k : Nat) (buf : List (Cx α)) : List (Cx α) :=
  (buf.drop (n - k)).take k ++ buf.drop k

/-- The start of a new period, after the offset `code_off`: skip leading samples, or re-use trailing
ones (R224). -/
def startPeriod (c : Channel α) : Channel α :=
  if 0 < c.codeOff then { c with skip := c.codeOff.natAbs, fill := 0 }
  else if c.codeOff = 0 then { c with skip := 0, fill := 0 }
  else
    { c with
      buf := reuseTail cfg.n c.codeOff.natAbs c.buf
      skip := 0
      fill := c.codeOff.natAbs }

/-- `CH.PERIOD s`: correlate, find the peak, run the state machine, start the next period (R226). -/
def chPeriod (spec : List (Cx α)) (s : Nat) (c : Channel α) : Tracked α :=
  let w := corr num cfg.n spec c.buf
  let o := signedOffset cfg.n (peakIndex num w)
  (trkStep num cfg s (offsetValid cfg.spc o) (peakValue num w) { c with codeOff := o }).andThen fun c1 =>
    quiet (if c1.alive then startPeriod cfg c1 else c1)

/-- `CH.FEED s, x`: one delivered sample: mixed, then skipped or stored; a full buffer completes the
period (R221 to R223). A channel that is not alive ignores it (R229). -/
def chFeed (spec : List (Cx α)) (s : Nat) (x : Cx α) (c : Channel α) : Tracked α :=
  if c.alive then
    let y := mix num c.nco x
    let c1 := { c with nco := oscAdvance num c.nco }
    if 0 < c1.skip then quiet { c1 with skip := c1.skip - 1 }
    else
      let c2 := { c1 with buf := memWrite c1.buf c1.fill y, fill := c1.fill + 1 }
      if c2.fill = cfg.n then chPeriod num cfg spec s c2 else quiet c2
  else quiet c

/-- A published block delivered to a channel, sample by sample (R343 step 1). -/
def feedAll (spec : List (Cx α)) (s : Nat) : List (Cx α) → Channel α → Tracked α
  | [], c => quiet c
  | x :: xs, c => (chFeed num cfg spec s x c).andThen (feedAll spec s xs)

end Sys2Proof.Machine
end

