-- ==== Sys2Proof/Machine/Dispatcher.lean ====
section
/-! DEFINITION. Dispatcher: the sample input, block assembly and the block boundary,
47_dispatcher_host.md. -/

namespace Sys2Proof.Machine

variable {α : Type} (num : Numerics α)

/-- A published block delivered to slot `s`, if it is active (R343 step 1). -/
def deliver (b : Block α) (s : Nat) (c : Channel α) : Tracked α :=
  if c.active then feedAll num b.cfg (spectrumOf b s) s b.sys.blk c else quiet c

/-- The liveness poll of slot `s`: an active channel that is not alive is removed (R349). -/
def livenessPoll (s : Nat) (c : Channel α) : Tracked α :=
  if c.active && !c.alive then ⟨{ c with active := false }, [.satDel s]⟩ else quiet c

/-- `BLOCK.DONE`: publish to the channels, poll their liveness, poll the acquisition engine, empty the
block (R343). -/
def blockDone (b : Block α) : Block α :=
  let b1 := acqPoll num (onSlots livenessPoll (onSlots (deliver num b) b))
  { b1 with sys := { b1.sys with blkFill := 0 } }

/-- The sample into the block buffer, timestamped if it is the block's first, and counted (R341, R342). -/
def assembleBlock (x : Cx α) (b : Block α) : Block α :=
  { b with
    sys :=
      { b.sys with
        blk := memWrite b.sys.blk b.sys.blkFill x
        blkT0 := if b.sys.blkFill = 0 then b.sys.sidx else b.sys.blkT0
        blkFill := b.sys.blkFill + 1
        sidx := b.sys.sidx + 1 } }

/-- A sample that is a number: acquisition feed, block assembly, and the block boundary if the block is
full (R341). -/
def takeSample (x : Cx α) (b : Block α) : Block α :=
  let b1 := assembleBlock x { b with acq := acqFeed b.cfg x b.acq }
  if b1.sys.blkFill = b1.cfg.n then blockDone num b1 else b1

/-- `SAMPLE` in mode RUN: NanSample if an operand is not a number (R384), else the sample is taken
(R341). -/
def sampleStep (re im : α) (b : Block α) : Block α :=
  if sampleIsNumber num re im then takeSample num ⟨re, im⟩ b else raise .nanSample b

end Sys2Proof.Machine
end

