-- ==== Sys2Proof/Machine/SampleCommand.lean ====
section
/-! DEFINITION. SampleCommand: `SAMPLE`, 47_dispatcher_host.md rule R341. -/

namespace Sys2Proof.Machine

variable {α : Type} (num : Numerics α)

/-- `SAMPLE`, `OPA` the real part and `OPB` the imaginary part (R341); refused when it would be consumed
after a sample that was not a number (R384). -/
def doSample : Block α → BlockOutcome α :=
  whenRunning (withOperands fun re im =>
    whenStreamIntact (sampleIsNumber num re im) fun b => .next (sampleStep num re im b))

/-- `SAMPLE` (R341). -/
def execSample (s : State) : StateOutcome := onBlock (doSample Config.num) s

end Sys2Proof.Machine
end

