-- ==== Sys2Proof/Machine/Flags.lean ====
section
/-! DEFINITION. Flags: the status words (30_encoding.md rules R97 to R99) and the numeric codes of the
enumerations (rules R101 to R103). The block has no arithmetic condition codes (10_state.md rule R23). -/

namespace Sys2Proof.Machine

/-- The lock-state codes (R101). -/
def lockCode : LockState → BitVec 3
  | .offsetAcquire => 0
  | .frequencyAcquire => 1
  | .pllAcquire => 2
  | .bitAcquire => 3
  | .preambleAcquire => 4
  | .subframeAcquire => 5
  | .signalLost => 6

/-- The acquisition-state codes (R102). -/
def acqCode : AcqState → BitVec 2
  | .idle => 0
  | .collecting => 1
  | .searching => 2
  | .resultsReady => 3

/-- The cause codes (R103). -/
def causeCode : Cause → BitVec 16
  | .advance => 0
  | .offsetInvalid => 1
  | .iqInvalid => 2
  | .parity => 3
  | .bitsync => 4
  | .subframeDone => 5

variable {α : Type} (num : Numerics α)

/-- The number of channels with `active = 1` (R97). -/
def activeCount (b : Block α) : Nat := (b.ch.filter fun c => c.active).length

/-- The `SYS.STAT` word in mode RUN: `[0]` the mode, 0; `[1]` `err_cmd`; `[2]` `err_nan`; `[13:8]` the
number of active channels (R97). -/
def sysStatWord (b : Block α) : Word :=
  0#18 ++ BitVec.ofNat 6 (activeCount b) ++ 0#5 ++ BitVec.ofBool b.sys.errNan
    ++ BitVec.ofBool b.sys.errCmd ++ 0#1

/-- The `SYS.STAT` word in mode FATAL (R97). -/
def sysStatFatal : Word := 0x00000001#32

/-- The `ACQ.STAT` word: `[1:0]` the state, `[7:2]` the length of `acq.found` (R98). -/
def acqStatWord (b : Block α) : Word :=
  0#24 ++ BitVec.ofNat 6 b.acq.found.length ++ acqCode b.acq.state

/-- The `CH.STAT` word of an active channel: `[2:0]` the state, `[3]` active, `[4]` alive, `[5]` set when
the polarity is −1 (R99). -/
def chStatWord (c : Channel α) : Word :=
  0#26 ++ BitVec.ofBool (c.polarity == .neg) ++ BitVec.ofBool c.alive ++ BitVec.ofBool c.active
    ++ lockCode c.state

/-- The `CH.STAT` word of an inactive slot (R99). -/
def chStatInactive : Word := 0x00000006#32

end Sys2Proof.Machine
end

