-- ==== Sys2Proof/Machine/StatusCommands.lean ====
section
/-! DEFINITION. StatusCommands: `NOP`, `SYS.STAT`, `ACQ.STAT`, `CH.STAT`, 47_dispatcher_host.md rules
R360 to R363. -/

namespace Sys2Proof.Machine

variable {α : Type} (num : Numerics α)

/-- `NOP`: does nothing, in either mode (R360). -/
def doNop (b : Block α) : BlockOutcome α := .next b

/-- `SYS.STAT`: the one command that acts in FATAL mode, where it leaves `RES0` alone (R361, R97). -/
def doSysStat (b : Block α) : BlockOutcome α :=
  match b.sys.mode with
  | .fatal => .next (writeResi sysStatFatal b)
  | .run => .next (writeResi (sysStatWord b) (writeRes0 (num.ofNat b.sys.sidx) b))

/-- `ACQ.STAT` (R362, R98). -/
def doAcqStat : Block α → BlockOutcome α := whenRunning fun b => .next (writeResi (acqStatWord b) b)

/-- What `CH.STAT` writes for a slot: its status, frequency in hertz and code offset if it is active,
the inactive word and zeros if it is not (R99). -/
def writeChStat (c : Channel α) (b : Block α) : Block α :=
  if c.active then
    writeResi (chStatWord c) (writeRes (oscFrequency num b.cfg c.nco) (num.ofInt c.codeOff) b)
  else writeResi chStatInactive (writeRes num.zero num.zero b)

/-- `CH.STAT sat`; a bad id is an illegal command (R363). -/
def doChStat (sat : BitVec 8) : Block α → BlockOutcome α :=
  whenRunning (whenLegal (satLegal sat) fun b => .next (writeChStat num (channelAt num b (satOf sat)) b))

/-- `NOP` (R360). -/
def execNop (s : State) : StateOutcome := onBlock doNop s

/-- `SYS.STAT` (R361). -/
def execSysStat (s : State) : StateOutcome := onBlock (doSysStat Config.num) s

/-- `ACQ.STAT` (R362). -/
def execAcqStat (s : State) : StateOutcome := onBlock doAcqStat s

/-- `CH.STAT` (R363). -/
def execChStat (sat : BitVec 8) (s : State) : StateOutcome := onBlock (doChStat Config.num sat) s

end Sys2Proof.Machine
end

