-- ==== Sys2Proof/Machine/Dispatch.lean ====
section
/-! DEFINITION. Dispatch: one arm for each command of 30_encoding.md rule R92. -/

namespace Sys2Proof.Machine

/-- The meaning of a command. -/
def exec (i : Instr) (s : State) : Host.Outcome State Fault Refusal :=
  match i with
  | .nop => Sys2Proof.Machine.execNop s
  | .ncoEval => Sys2Proof.Machine.execNcoEval s
  | .ncoSetf => Sys2Proof.Machine.execNcoSetf s
  | .ncoAddf => Sys2Proof.Machine.execNcoAddf s
  | .ncoAdvp => Sys2Proof.Machine.execNcoAdvp s
  | .cgChip sat idx => Sys2Proof.Machine.execCgChip sat idx s
  | .cgSpec sat bin => Sys2Proof.Machine.execCgSpec sat bin s
  | .sample => Sys2Proof.Machine.execSample s
  | .chStat sat => Sys2Proof.Machine.execChStat sat s
  | .acqStat => Sys2Proof.Machine.execAcqStat s
  | .sysStat => Sys2Proof.Machine.execSysStat s

end Sys2Proof.Machine
end

