-- ==== Sys2Proof/Machine/Port.lean ====
section
/-! DEFINITION. Port: what the command port does around a command: the wait for one, the operands, an
illegal word, and reset (00_scope.md rule R5, 30_encoding.md rules R90, R96, 70_reset_and_hazards.md
rule R420). -/

namespace Sys2Proof.Machine

/-- Nothing on the port: the block waits for a command (R421), and nothing changes (R5). -/
def portIdle (s : State) : StateOutcome := .next s

/-- A command accepted: it leaves the port, and in mode RUN the operands the host supplies with it are
in `OPA`, `OPB` (R20, R90); in mode FATAL no register is written (R381). -/
def acceptCommand (c : Command NumVal) (rest : List (PortEvent NumVal)) (s : State) : State :=
  match s.sys.mode with
  | .fatal => { s with port := rest }
  | .run => { s with toBlock := writeOperands c.opa c.opb s.toBlock, port := rest }

/-- A word that no row of R92 matches: IllegalCommand (R96), but in mode FATAL nothing (R381). -/
def illegalWord (s : State) : StateOutcome :=
  onBlock (whenRunning fun b => .next (raise .illegalCommand b)) s

/-- A reset from the host: everything from before it is lost (R420), but what the host has not issued
yet; a configuration outside its types is refused (R381, decision D50). -/
def portReset (cfg : Cfg) (rest : List (PortEvent NumVal)) (s : State) : StateOutcome :=
  if cfg.inType then .next { toBlock := blockReset Config.num cfg s.draws, port := rest }
  else .refused .configOutOfType

/-- A command for the port whose operands are both 0, its word the low `nbits` bits of `w`. -/
def fetchCommand (nbits w : Nat) : Command NumVal :=
  ⟨BitVec.ofNat 32 (w % 2 ^ nbits), some Config.num.zero, some Config.num.zero⟩

/-- The port with a command to be accepted next. -/
def placeCommand (c : Command NumVal) (s : State) : State := { s with port := .command c :: s.port }

end Sys2Proof.Machine
end

