-- ==== Sys2Proof/Machine/Step.lean ====
section
/-! DEFINITION. Step: one atomic event of 00_scope.md rule R5: the next command or reset on the port.
The sweep step of the acquisition worker happens inside the poll (43_acquisition.md rule R201). -/

namespace Sys2Proof.Machine

/-- One step: accept and perform the next command on the port, or the next reset; with nothing on the
port, wait. -/
def step (s : State) : Host.Outcome State Fault Refusal :=
  match s.port with
  | [] => portIdle s
  | .reset cfg :: rest => portReset cfg rest s
  | .command c :: rest =>
    match decode c.w with
    | .ok i => exec i (acceptCommand c rest s)
    | .error _ => illegalWord (acceptCommand c rest s)

/-- `s` with a command of word `w` (its low `nbits` bits) placed on the port, to be accepted by the next
step, with both operands supplied (R90: a command is the word and two operands). -/
def State.withFetchWord (s : State) (nbits w : Nat) : State := placeCommand (fetchCommand nbits w) s

end Sys2Proof.Machine
end

