-- ==== Sys2Proof/Machine/Events.lean ====
section
/-! DEFINITION. Events: the header and the payload of an event record on the output port
(30_encoding.md rule R100). -/

namespace Sys2Proof.Machine

/-- A header: `H[31:28]` kind, `H[27:22]` satellite, `H[21:16]` `aux1`, `H[15:0]` `aux2` (R100). -/
def header (kind : BitVec 4) (sat : Nat) (aux1 : BitVec 6) (aux2 : BitVec 16) : Word :=
  kind ++ (BitVec.ofNat 6 sat ++ (aux1 ++ aux2))

variable {α : Type}

/-- The 32-bit header of an event (R100). -/
def eventHeader : Event α → Word
  | .acqDone k => header 1 0 (BitVec.ofNat 6 k) 0
  | .acqResult s p _ _ => header 2 s (if p then 1 else 0) 0
  | .satAdd s => header 3 s 0 0
  | .satDel s => header 4 s 0 0
  | .stateChange s old new cause => header 5 s (lockCode old ++ lockCode new) (causeCode cause)
  | .navBit s bit => header 6 s (if bit then 1 else 0) 0
  | .bitsyncLost s => header 7 s 0 0
  | .subframe s stored id _ _ => header 8 s (0#2 ++ BitVec.ofBool stored ++ id) 0
  | .frameReady s => header 9 s 0 0
  | .parityFail s idx => header 10 s (BitVec.ofNat 6 idx) 0
  | .fatalConfig => header 15 0 0 0

/-- One item of a payload: a number, a 32-bit word, or a metadata record (R100). -/
inductive PayloadItem (α : Type) where
  | value (x : α)
  | word (w : Word)
  | info (m : SubframeMeta)
deriving DecidableEq, Repr

/-- The payload that follows the header (R100): ratio and frequency of `ACQ_RESULT`; the ten words of
`SUBFRAME`, each in the low 30 bits of a 32-bit word, then the metadata record. R100 is silent on bits
31 and 30 of those words: DESIGN CHOICE, they are 0 (log entry 17). -/
def eventPayload : Event α → List (PayloadItem α)
  | .acqResult _ _ r f => [.value r, .value f]
  | .subframe _ _ _ ws m => ws.map (fun w => .word (0#2 ++ w)) ++ [.info m]
  | .acqDone _ => []
  | .satAdd _ => []
  | .satDel _ => []
  | .stateChange _ _ _ _ => []
  | .navBit _ _ => []
  | .bitsyncLost _ => []
  | .frameReady _ => []
  | .parityFail _ _ => []
  | .fatalConfig => []

end Sys2Proof.Machine
end

