-- ==== Sys2Proof/Machine/Exact.lean ====
section
/-! DEFINITION. Exact: the commands over any numerics record, and `NUM` instantiated with the exact
reals, the first of the two readings 00_scope.md rule R6 allows. The machine itself never uses it:
statements about exact reals do. -/

namespace Sys2Proof.Machine

/-- A command performed on the block over any `NUM` (R92). -/
def performOver {α : Type} (num : Numerics α) (i : Instr) (b : Block α) : BlockOutcome α :=
  match i with
  | .nop => doNop b
  | .ncoEval => doNcoEval num b
  | .ncoSetf => doNcoSetf num b
  | .ncoAddf => doNcoAddf num b
  | .ncoAdvp => doNcoAdvp num b
  | .cgChip sat idx => doCgChip sat idx b
  | .cgSpec sat bin => doCgSpec num sat bin b
  | .sample => doSample num b
  | .chStat sat => doChStat num sat b
  | .acqStat => doAcqStat b
  | .sysStat => doSysStat num b

/-- The free value of R198 (log entry 18) over the exact reals. The sweep never asks for it: a sum of
magnitudes is not below 0. -/
noncomputable opaque exactUnstatedRatio : List ℝ → ℝ

/-- `NUM` = exact reals (R6): `atan2(y, x)` is the argument of `x + j·y`, a value in `(−π, π]` that is 0
at 0 (R7); every real is a number (R384). -/
noncomputable def exactNum : Numerics ℝ where
  add := fun x y => x + y
  sub := fun x y => x - y
  mul := fun x y => x * y
  div := fun x y => x / y
  sqrt := Real.sqrt
  sin := Real.sin
  cos := Real.cos
  floor := fun x => (⌊x⌋ : ℝ)
  atan2 := fun y x => Complex.arg ⟨x, y⟩
  lt := fun x y => decide (x < y)
  lit := fun n d => (n : ℝ) / (d : ℝ)
  pi := Real.pi
  isNumber := fun _ => true
  unstatedRatio := exactUnstatedRatio

end Sys2Proof.Machine
end

