-- ==== Sys2Proof/Safety.lean ====
section
/-! DEFINITION. Safety: the words that statements about the machine use: legal configurations, the
sample clock, the acquisition engine's and the channels' bounds, wrapped phases, and the transitions
of the lock state. -/

namespace Sys2Proof.Machine

/-- A running block's configuration is one that reset accepts (00_scope.md rules R2, R3, R420). -/
def cfgLegal (cfg : Cfg) : Prop := cfg.inType = true ∧ cfg.chipAligned = true

/-- What an illegal command leaves: `err_cmd` set, `RESI` all ones, everything else as it was
(30_encoding.md rule R96). -/
def afterIllegalCommand (s : State) : State :=
  { s with sys := { s.sys with errCmd := true }, cmd := { s.cmd with resi := 0xFFFFFFFF#32 } }

variable {α : Type}

/-- The creation values that 10_state.md rules R30 to R39 and 43_acquisition.md rule R203 give a channel
promoted at frequency `f`; the fields they leave unspecified are not named. -/
structure CreationValues (num : Numerics α) (cfg : Cfg) (f : α) (c : Channel α) : Prop where
  state : c.state = .offsetAcquire
  active : c.active = true
  alive : c.alive = true
  phase : c.nco.phase = num.zero
  inc : c.nco.inc = num.div (num.mul num.twoPi f) (num.ofNat cfg.fsHz)
  fill : c.fill = 0
  skip : c.skip = 0
  codeOff : c.codeOff = 0
  offValid : c.offValid = 0
  offInvalid : c.offInvalid = 0
  faHavePrev : c.faHavePrev = false
  faSum : c.faSum = num.zero
  faN : c.faN = 0
  maN : c.maN = 0
  maPos : c.maPos = 0
  pllN : c.pllN = 0
  pllMean : c.pllMean = num.zero
  pllVar : c.pllVar = num.zero
  iqValid : c.iqValid = 0
  iqInvalid : c.iqInvalid = 0
  bsHavePrev : c.bsHavePrev = false
  bitSum : c.bitSum = 0
  bitCnt : c.bitCnt = 0
  wreg : c.wreg = 0
  wbits : c.wbits = 0
  polarity : c.polarity = .pos
  sfBits : c.sfBits = 0
  frameHave : c.frameHave = [false, false, false, false, false]
  sf1Seen : c.sf1Seen = false

/-- The sample clock (47_dispatcher_host.md rule R342): sample `k` of the stream is element `k mod N` of
its block, and the block's timestamp is the absolute index of its element 0, a multiple of `N`. -/
structure SampleClock (b : Block α) : Prop where
  fill_lt : b.sys.blkFill < b.cfg.n
  fill_eq : b.sys.blkFill = b.sys.sidx % b.cfg.n
  stamp : 0 < b.sys.blkFill → b.sys.blkT0 + b.sys.blkFill = b.sys.sidx
  stamp_aligned : b.sys.blkT0 % b.cfg.n = 0

/-- The acquisition engine between two events: the capture fits its buffer and is unfinished while it is
being collected, results never wait (43_acquisition.md rules R192, R193, R202), and the report names
each satellite once, in ascending order (R196). -/
structure AcqBounds (cfg : Cfg) (a : AcqEngine α) : Prop where
  fill_le : a.fill ≤ cfg.captureLen
  collecting : a.state = .collecting → a.fill < cfg.captureLen
  consumed : a.state ≠ .resultsReady
  found_sat : ∀ x ∈ a.found, 1 ≤ x.sat ∧ x.sat ≤ nSat
  found_ascending : a.found.Pairwise fun x y => x.sat < y.sat

/-- The bounds that 10_state.md rules R32 to R38 give the fields of a channel, between two events. -/
structure ChannelBounds (cfg : Cfg) (c : Channel α) : Prop where
  fill_lt : c.fill < cfg.n
  skip_le : 2 * c.skip ≤ cfg.n
  off_low : -(cfg.n : Int) < 2 * c.codeOff
  off_high : 2 * c.codeOff ≤ (cfg.n : Int)
  not_lost : c.state ≠ .signalLost
  offValid_le : c.offValid ≤ offValidN
  offValid_lt : c.state = .offsetAcquire → c.offValid < offValidN
  offInvalid_lt : c.offInvalid < offInvalidN
  off_kept : c.state ≠ .offsetAcquire → offsetValid cfg.spc c.codeOff = true
  faN_lt : c.faN < faPeriods
  maN_le : c.maN ≤ faMaLen
  maPos_lt : c.maPos < faMaLen
  pllN_lt : c.pllN < pllBlock
  iqValid_le : c.iqValid ≤ pllValidN
  iqValid_lt : c.state = .pllAcquire → c.iqValid < pllValidN
  iqInvalid_lt : c.iqInvalid < iqInvalidN
  bitCnt_lt : c.bitCnt < bitPeriods
  bitSum_le : c.bitSum.natAbs ≤ c.bitCnt
  wbits_le : c.wbits ≤ wordBits
  sfBits_lt : c.sfBits < sfWords * wordBits
  sfBits_ge : c.state = .subframeAcquire → wordBits ≤ c.sfBits

/-- Every slot between two events: it is active exactly when it is alive (a lost channel is removed at
the boundary of the block that lost it, 47_dispatcher_host.md rule R349), and an active channel is
within its bounds. -/
def ChannelsBounded (b : Block α) : Prop :=
  ∀ c ∈ b.ch, c.active = c.alive ∧ (c.active = true → ChannelBounds b.cfg c)

/-- What mode RUN asks of the block for `P` to be its invariant: a legal configuration and `P`. -/
def whileRunning (P : Block α → Prop) (b : Block α) : Prop :=
  b.sys.mode = .run → cfgLegal b.cfg ∧ P b

/-- An oscillator's phase is in `[0, 2π)` (40_nco.md rule R120), over exact reals. -/
def phaseWrapped (o : Osc ℝ) : Prop := 0 ≤ o.phase ∧ o.phase < 2 * Real.pi

/-- Every oscillator's phase is in `[0, 2π)` (R120): the host's, the acquisition engine's, every
channel's. -/
def phasesWrapped (b : Block ℝ) : Prop :=
  phaseWrapped b.ncoH ∧ phaseWrapped b.acq.nco ∧ ∀ c ∈ b.ch, phaseWrapped c.nco

/-- The complex number of a pair. -/
def toComplex (z : Cx ℝ) : ℂ := ⟨z.re, z.im⟩

/-- The values a sequence takes at the index `i mod N`. -/
def cyclic (y : List (Cx ℝ)) (i : Nat) : Cx ℝ := y.getD (i % y.length) ⟨0, 0⟩

/-- The circular correlation of a buffer with a code, the closed form of 42_correlator.md rule R174:
`Σ y[(i + m) mod N] · x[i]`. -/
noncomputable def circularCorrelation (x y : List (Cx ℝ)) (m : Nat) : ℂ :=
  ∑ i ∈ Finset.range y.length, toComplex (cyclic y (i + m)) * toComplex (cyclic x i)

/-- `k` calls of `evaluate()` on an oscillator (R108, R121). -/
def oscAdvanceN (num : Numerics α) : Nat → Osc α → Osc α
  | 0, o => o
  | k + 1, o => oscAdvanceN num k (oscAdvance num o)

/-- The transitions of 45_tracking_fsm.md rule R274 that a period of a channel can make, and their
causes. -/
def transitionListed : LockState → LockState → Cause → Bool
  | .offsetAcquire, .frequencyAcquire, .advance => true
  | .offsetAcquire, .signalLost, .offsetInvalid => true
  | .frequencyAcquire, .signalLost, .offsetInvalid => true
  | .pllAcquire, .signalLost, .offsetInvalid => true
  | .bitAcquire, .signalLost, .offsetInvalid => true
  | .preambleAcquire, .signalLost, .offsetInvalid => true
  | .subframeAcquire, .signalLost, .offsetInvalid => true
  | .frequencyAcquire, .pllAcquire, .advance => true
  | .pllAcquire, .bitAcquire, .advance => true
  | .bitAcquire, .signalLost, .iqInvalid => true
  | .preambleAcquire, .signalLost, .iqInvalid => true
  | .subframeAcquire, .signalLost, .iqInvalid => true
  | .bitAcquire, .preambleAcquire, .advance => true
  | .preambleAcquire, .bitAcquire, .bitsync => true
  | .subframeAcquire, .bitAcquire, .bitsync => true
  | .preambleAcquire, .subframeAcquire, .advance => true
  | .subframeAcquire, .preambleAcquire, .subframeDone => true
  | .subframeAcquire, .signalLost, .parity => true
  | _, _, _ => false

end Sys2Proof.Machine
end

