-- ==== Sys2Proof/WellFormed.lean ====
section
/-! DEFINITION. WellFormed: the "legal when" column of 30_encoding.md rule R92. -/

namespace Sys2Proof

/-- A satellite id is one of 1 to 32 (R106). -/
def satInRange (sat : BitVec 8) : Bool := 1 ≤ sat.toNat && sat.toNat ≤ 32

/-- R92's "legal when", for a block whose code period is `n` samples (R2): the satellite id and, for
the two commands that carry one, the index are in range. -/
def Instr.wellFormed (n : Nat) : Instr → Bool
  | .nop => true
  | .ncoEval => true
  | .ncoSetf => true
  | .ncoAddf => true
  | .ncoAdvp => true
  | .cgChip sat idx => satInRange sat && idx.toNat ≤ 1022
  | .cgSpec sat bin => satInRange sat && bin.toNat < n
  | .sample => true
  | .chStat sat => satInRange sat
  | .acqStat => true
  | .sysStat => true

end Sys2Proof
end

