-- ==== Sys2Proof/Certificates/Slice0/Obligations.lean ====
section
/-! DEFINITION. Obligations: the statements for the provers. A statement over `num` holds for every
numerics record; one over `exactNum` is about `NUM` = exact reals (00_scope.md rule R6). -/

open Sys2Proof Sys2Proof.Machine

/-! ## Words and steps -/

/-- Decoding an encoded command gives it back, every field at every value, and a word that decodes is the
encoding of what it decodes to: no bit of a command word is ignored (30_encoding.md R92, R94). -/
def Obligations.DecodeAndEncodeAgree : Prop :=
  (∀ i : Instr, decode (encode i) = .ok i)
  ∧ (∀ (w : Word) (i : Instr), decode w = .ok i → encode i = w)

/-- A word of each of the eleven rows of R92, written out from the row, decodes to the command it stands
for. -/
def Obligations.WrittenWordsDecode : Prop :=
  decode 0x00000000#32 = .ok .nop ∧ decode 0x01000000#32 = .ok .ncoEval
    ∧ decode 0x02000000#32 = .ok .ncoSetf ∧ decode 0x03000000#32 = .ok .ncoAddf
    ∧ decode 0x04000000#32 = .ok .ncoAdvp
    ∧ decode 0x10200004#32 = .ok (.cgChip 32 4) ∧ decode 0x110107FD#32 = .ok (.cgSpec 1 2045)
    ∧ decode 0x20000000#32 = .ok .sample ∧ decode 0x30200000#32 = .ok (.chStat 32)
    ∧ decode 0x31000000#32 = .ok .acqStat ∧ decode 0x32000000#32 = .ok .sysStat

/-- A step at a state whose port begins with a command that decodes is `exec` of that command at the
state with the command taken off the port and, in mode RUN, its operands in `OPA`, `OPB`. That an
operand left out keeps the register's value is the model's choice (log entry 10). -/
def Obligations.StepRunsDecodedCommand : Prop :=
  ∀ (s : State) (c : Command NumVal) (rest : List (PortEvent NumVal)) (i : Instr),
    s.port = .command c :: rest → decode c.w = .ok i →
      step s = exec i (acceptCommand c rest s)
        ∧ (s.sys.mode = .fatal → acceptCommand c rest s = { s with port := rest })
        ∧ (s.sys.mode = .run → acceptCommand c rest s =
            { s with
              port := rest
              cmd := { s.cmd with opa := c.opa.or s.cmd.opa, opb := c.opb.or s.cmd.opb } })

/-- The two steps that run no command. With nothing on the port the block waits and nothing changes. A
reset with a configuration of this block leaves the reset state for it; with any other it is the refusal
that decision D50 asks for (60_exceptions.md R381, 70_reset_and_hazards.md R420). The model's choices: the
port (log entry 7); that reset carries the draw counter on (log entry 5); which configurations are the
block's, the bound `SPC ≤ 64` asked only of whole multiples of the chip rate and `FS_HZ = 0` refused (log
entry 15). `SEC_PER_TRIGGER` is `secNum / secDen` (log entry 3). -/
def Obligations.StepWaitsOrResets : Prop :=
  (∀ s : State, s.port = [] → step s = .next s)
  ∧ (∀ (s : State) (cfg : Cfg) (rest : List (PortEvent NumVal)), s.port = .reset cfg :: rest →
    let ofBlock : Prop :=
      0 < cfg.fsHz ∧ 1 ≤ cfg.nEpochs ∧ 0 < cfg.secNum ∧ 0 < cfg.secDen ∧ 50 ∣ cfg.fSearchMax
        ∧ (cfg.fsHz % 1023000 = 0 → cfg.fsHz / 1023000 ≤ 64)
    (ofBlock → step s = .next { toBlock := blockReset Config.num cfg s.draws, port := rest })
    ∧ (¬ofBlock → step s = .refused .configOutOfType))

/-- R43: what reset leaves, for a configuration whose sample rate is a whole multiple of the chip rate
and for one whose sample rate is not. The timer stands at `TRIG_SAMPLES`, the ceiling of
`SEC_PER_TRIGGER · FS_HZ` with `SEC_PER_TRIGGER` the fraction `secNum / secDen` (log entry 3), and the code
spectra are those for `SPC = FS_HZ / 1023000` samples per chip and `N = 1023 · SPC`. -/
def Obligations.ResetLeavesRuleValues : Prop :=
  ∀ (α : Type) (num : Numerics α) (cfg : Cfg) (draws : Nat),
    let b := blockReset num cfg draws
    (cfg.fsHz % 1023000 = 0 →
      b.cfg = cfg ∧ cfg.spc = cfg.fsHz / 1023000 ∧ cfg.n = 1023 * (cfg.fsHz / 1023000)
        ∧ b.sys.mode = .run ∧ b.sys.sidx = 0 ∧ b.sys.blkFill = 0 ∧ b.sys.blkT0 = 0
        ∧ b.sys.errCmd = false ∧ b.sys.errNan = false
        ∧ b.cmd.res0 = num.zero ∧ b.cmd.res1 = num.zero ∧ b.cmd.resi = 0
        ∧ b.cmd.opa = none ∧ b.cmd.opb = none
        ∧ b.ncoH = ⟨num.zero, num.zero⟩
        ∧ (∀ s, 1 ≤ s → s ≤ 32 → codeOf b s = (goldGen s).1
            ∧ spectrumOf b s = codeSpectrum num cfg (goldGen s).1)
        ∧ b.acq.state = .idle ∧ (b.acq.timer : Int) = ⌈(cfg.secNum : ℚ) / cfg.secDen * cfg.fsHz⌉
        ∧ b.acq.fill = 0 ∧ b.acq.nco = ⟨num.zero, num.zero⟩
        ∧ b.acq.bestRatio = List.replicate 32 num.zero ∧ b.acq.bestFreq = List.replicate 32 num.zero
        ∧ b.acq.found = [] ∧ b.acq.wait = 0
        ∧ b.ch.length = 32
        ∧ (∀ c ∈ b.ch, c.active = false ∧ c.alive = false ∧ c.state = .signalLost)
        ∧ b.evOut = [])
    ∧ (cfg.fsHz % 1023000 ≠ 0 → b.sys.mode = .fatal ∧ b.evOut = [.fatalConfig])

/-! ## Conditions and modes -/

/-- R96: a word that no row of R92 matches, and a command whose "legal when" is false, set `err_cmd`,
write `RESI` with all ones, and change nothing else. That the host's operands are in `OPA`, `OPB` before
an illegal word is looked at is the model's choice (log entry 10). -/
def Obligations.IllegalCommandOnlyFlags : Prop :=
  (∀ (s : State) (c : Command NumVal) (rest : List (PortEvent NumVal)),
    s.sys.mode = .run → s.port = .command c :: rest →
    (∀ r ∈ opcodeRows, c.w &&& r.mask ≠ r.value) →
    step s = .next (afterIllegalCommand (acceptCommand c rest s)))
  ∧ (∀ (s : State) (i : Instr), s.sys.mode = .run → i.wellFormed s.cfg.n = false →
    exec i s = .next (afterIllegalCommand s))
  ∧ (∀ s : State, afterIllegalCommand s =
    { s with sys := { s.sys with errCmd := true }, cmd := { s.cmd with resi := 0xFFFFFFFF#32 } })

/-- In mode FATAL every command, legal or not, is accepted and changes nothing, but `SYS.STAT`, which
writes `RESI` with 1 (60_exceptions.md R381, 30_encoding.md R97). -/
def Obligations.FatalModeIsInert : Prop :=
  ∀ (s : State) (c : Command NumVal) (rest : List (PortEvent NumVal)),
    s.sys.mode = .fatal → s.port = .command c :: rest →
    step s = .next (if decode c.w = .ok .sysStat
      then { s with port := rest, cmd := { s.cmd with resi := 0x00000001#32 } }
      else { s with port := rest })

/-- A command that reads an operand register that holds no value is refused (10_state.md R20). -/
def Obligations.MissingOperandRefused : Prop :=
  ∀ s : State, s.sys.mode = .run →
    (s.cmd.opa = none → exec .ncoSetf s = .refused (.operandMissing .opa)
      ∧ exec .ncoAddf s = .refused (.operandMissing .opa)
      ∧ exec .ncoAdvp s = .refused (.operandMissing .opa)
      ∧ exec .sample s = .refused (.operandMissing .opa))
    ∧ (∀ x, s.cmd.opa = some x → s.cmd.opb = none → exec .sample s = .refused (.operandMissing .opb))

/-- The mode, the configuration and the code tables are changed by no command: only reset leaves a
mode (10_state.md R22), and the tables are "written once, read many" (20_memory.md R67). -/
def Obligations.CommandsKeepModeAndTables : Prop :=
  ∀ (s t : State) (c : Command NumVal) (rest : List (PortEvent NumVal)),
    s.port = .command c :: rest → step s = .next t →
    t.sys.mode = s.sys.mode ∧ t.cfg = s.cfg ∧ t.cg = s.cg ∧ t.port = rest

/-- Through every command the sticky flags, once set, stay set (10_state.md R23, 60_exceptions.md R391),
and the event stream is only appended to (10_state.md R41). -/
def Obligations.FlagsAndEventsAccumulate : Prop :=
  ∀ (s t : State) (c : Command NumVal) (rest : List (PortEvent NumVal)),
    s.port = .command c :: rest → step s = .next t →
    (s.sys.errCmd = true → t.sys.errCmd = true) ∧ (s.sys.errNan = true → t.sys.errNan = true)
      ∧ ∃ es, t.evOut = s.evOut ++ es

/-- The host's commands and the receiver do not interfere: a command other than `SAMPLE` advances no time
and touches no channel, no acquisition state, no block, no event; and what the host does with its
oscillator and the result registers changes nothing of what a sample does (47_dispatcher_host.md R340,
R364). -/
def Obligations.HostCommandsLeaveReceiverAlone : Prop :=
  (∀ (i : Instr) (s t : State), i ≠ .sample → exec i s = .next t →
    t.sys.sidx = s.sys.sidx ∧ t.sys.blk = s.sys.blk ∧ t.sys.blkFill = s.sys.blkFill
      ∧ t.sys.blkT0 = s.sys.blkT0 ∧ t.acq = s.acq ∧ t.ch = s.ch ∧ t.evOut = s.evOut
      ∧ t.draws = s.draws)
  ∧ (∀ (α : Type) (num : Numerics α) (re im : α) (b : Block α) (o : Osc α) (cmd : CmdRegs α),
    sampleStep num re im { b with ncoH := o, cmd := cmd }
      = { sampleStep num re im b with ncoH := o, cmd := cmd })

/-! ## What each command does -/

/-- R360: `NOP` does nothing, in either mode. -/
def Obligations.NopDoesNothing : Prop := ∀ s : State, exec .nop s = .next s

/-- R121 in mode RUN: the sample of the phase held when the call began goes to `RES0`, `RES1`, and the
phase advances by the increment, wrapped. -/
def Obligations.NcoEvalReturnsThenAdvances : Prop :=
  ∀ s : State, s.sys.mode = .run →
    exec .ncoEval s = .next { s with
      cmd := { s.cmd with
        res0 := Config.num.cos s.ncoH.phase
        res1 := Config.num.sin s.ncoH.phase }
      ncoH := { s.ncoH with phase := Config.num.wrap2pi (Config.num.add s.ncoH.phase s.ncoH.inc) } }

/-- R122, R123 and R124 in mode RUN: `set_frequency` makes the increment `2π·f/fs`, `add_frequency` adds
`2π·Δ/fs` to it, `advance_phase` nudges the phase and wraps it; nothing else changes. -/
def Obligations.NcoSettingCommands : Prop :=
  ∀ (s : State) (x : NumVal), s.sys.mode = .run → s.cmd.opa = some x →
    let inc := Config.num.div (Config.num.mul Config.num.twoPi x) (Config.num.ofNat s.cfg.fsHz)
    exec .ncoSetf s = .next { s with ncoH := { s.ncoH with inc := inc } }
      ∧ exec .ncoAddf s
        = .next { s with ncoH := { s.ncoH with inc := Config.num.add s.ncoH.inc inc } }
      ∧ exec .ncoAdvp s = .next { s with
        ncoH := { s.ncoH with phase := Config.num.wrap2pi (Config.num.add s.ncoH.phase x) } }

/-- R100 to R103: the header fields of every event kind (kind, satellite, `aux1`, `aux2`), the payloads, and
the numeric codes of the enumerations. Of a `SUBFRAME` payload's words it says the low 30 bits, which are
all that R100 gives. -/
def Obligations.EventRecordsOnThePort : Prop :=
  (∀ (α : Type) (s : Nat), s ≤ 32 →
    let fields (e : Event α) : Nat × Nat × Nat × Nat :=
      let h := eventHeader e
      ((h.extractLsb' 28 4).toNat, (h.extractLsb' 22 6).toNat, (h.extractLsb' 16 6).toNat,
        (h.extractLsb' 0 16).toNat)
    (∀ k, k ≤ 32 → fields (.acqDone k) = (1, 0, k, 0))
    ∧ (∀ p r f, fields (.acqResult s p r f) = (2, s, p.toNat, 0))
    ∧ fields (.satAdd s) = (3, s, 0, 0) ∧ fields (.satDel s) = (4, s, 0, 0)
    ∧ (∀ old new cause, fields (.stateChange s old new cause)
        = (5, s, 8 * (lockCode old).toNat + (lockCode new).toNat, (causeCode cause).toNat))
    ∧ (∀ bit, fields (.navBit s bit) = (6, s, bit.toNat, 0))
    ∧ fields (.bitsyncLost s) = (7, s, 0, 0)
    ∧ (∀ stored id ws m, fields (.subframe s stored id ws m) = (8, s, 8 * stored.toNat + id.toNat, 0))
    ∧ fields (.frameReady s) = (9, s, 0, 0)
    ∧ (∀ idx, idx ≤ 11 → fields (.parityFail s idx) = (10, s, idx, 0))
    ∧ fields .fatalConfig = (15, 0, 0, 0))
  ∧ (∀ (α : Type) (s : Nat),
    (∀ p r f, eventPayload (.acqResult s p r f : Event α) = [.value r, .value f])
    ∧ (∀ stored id ws m, ∃ us : List Word,
        eventPayload (.subframe s stored id ws m : Event α) = us.map .word ++ [.info m]
          ∧ us.map (fun u => u.extractLsb' 0 30) = ws)
    ∧ (∀ e : Event α, (∀ i p r f, e ≠ .acqResult i p r f) → (∀ i st id ws m, e ≠ .subframe i st id ws m) →
        eventPayload e = []))
  ∧ [LockState.offsetAcquire, .frequencyAcquire, .pllAcquire, .bitAcquire, .preambleAcquire,
      .subframeAcquire, .signalLost].map lockCode = [0, 1, 2, 3, 4, 5, 6]
  ∧ [AcqState.idle, .collecting, .searching, .resultsReady].map acqCode = [0, 1, 2, 3]
  ∧ [Cause.advance, .offsetInvalid, .iqInvalid, .parity, .bitsync, .subframeDone].map causeCode
    = [0, 1, 2, 3, 4, 5]

/-- R152 in mode RUN: a legal `CG.CHIP` writes the chip, 0 or 1, to `RESI` and nothing else; with a field
out of range it is an illegal command. -/
def Obligations.CgChipReadsOneChip : Prop :=
  ∀ (s : State) (sat : BitVec 8) (idx : BitVec 16), s.sys.mode = .run →
    (1 ≤ sat.toNat ∧ sat.toNat ≤ 32 ∧ idx.toNat ≤ 1022 →
      exec (.cgChip sat idx) s = .next { s with
        cmd := { s.cmd with
          resi := if ((s.cg.code.getD (sat.toNat - 1) []).getD idx.toNat false) = true
            then 0x00000001#32 else 0x00000000#32 } })
    ∧ (¬(1 ≤ sat.toNat ∧ sat.toNat ≤ 32 ∧ idx.toNat ≤ 1022) →
      exec (.cgChip sat idx) s = .next (afterIllegalCommand s))

/-- R153 in mode RUN: a legal `CG.SPEC` writes the bin to `RES0`, `RES1` and nothing else; with a field out
of range it is an illegal command. -/
def Obligations.CgSpecReadsOneBin : Prop :=
  ∀ (s : State) (sat : BitVec 8) (bin : BitVec 16), s.sys.mode = .run →
    (1 ≤ sat.toNat ∧ sat.toNat ≤ 32 ∧ bin.toNat < s.cfg.n →
      let v := (s.cg.spec.getD (sat.toNat - 1) []).getD bin.toNat Config.num.czero
      exec (.cgSpec sat bin) s = .next { s with cmd := { s.cmd with res0 := v.re, res1 := v.im } })
    ∧ (¬(1 ≤ sat.toNat ∧ sat.toNat ≤ 32 ∧ bin.toNat < s.cfg.n) →
      exec (.cgSpec sat bin) s = .next (afterIllegalCommand s))

/-- R341: `SAMPLE` in mode FATAL does nothing. In mode RUN with `err_nan` clear, if both operands are
numbers, it feeds the acquisition engine, writes the sample into the block, stamps a block's first sample,
counts, and at the block's last sample runs `BLOCK.DONE`; if one is not, it sets `err_nan` and nothing else.
With `err_nan` set the stream is outside the specification: a sample that is a number is refused, one that
is not changes nothing (R384; log entry 11). Which values are numbers is `NUM`'s (log entry 2). -/
def Obligations.SampleFollowsRule : Prop :=
  ∀ (s : State) (x y : NumVal), s.cmd.opa = some x → s.cmd.opb = some y →
    (s.sys.mode = .fatal → exec .sample s = .next s)
    ∧ (s.sys.mode = .run → s.sys.errNan = false →
        let fed : Block NumVal :=
          { s.toBlock with
            acq := acqFeed s.cfg ⟨x, y⟩ s.acq
            sys :=
              { s.sys with
                blk := memWrite s.sys.blk s.sys.blkFill ⟨x, y⟩
                blkT0 := if s.sys.blkFill = 0 then s.sys.sidx else s.sys.blkT0
                blkFill := s.sys.blkFill + 1
                sidx := s.sys.sidx + 1 } }
        exec .sample s = .next { s with
          toBlock :=
            if Config.isNumber x = true ∧ Config.isNumber y = true then
              if s.sys.blkFill + 1 = s.cfg.n then blockDone Config.num fed else fed
            else { s.toBlock with sys := { s.sys with errNan := true } } })
    ∧ (s.sys.mode = .run → s.sys.errNan = true →
        exec .sample s = if Config.isNumber x = true ∧ Config.isNumber y = true
          then .refused .streamViolated else .next s)

/-- R361 with R97: the `SYS.STAT` word bit by bit, `RES0`, and nothing else; in FATAL the word 1 and
`RES0` as it was. -/
def Obligations.SysStatReportsSystem : Prop :=
  (∀ s : State, s.sys.mode = .fatal →
    exec .sysStat s = .next { s with cmd := { s.cmd with resi := 0x00000001#32 } })
  ∧ (∀ s : State, s.sys.mode = .run → s.ch.length = 32 →
    ∃ w : Word,
      exec .sysStat s = .next { s with
        cmd := { s.cmd with resi := w, res0 := Config.num.ofNat s.sys.sidx } }
      ∧ w.getLsbD 0 = false ∧ w.getLsbD 1 = s.sys.errCmd ∧ w.getLsbD 2 = s.sys.errNan
      ∧ (w.extractLsb' 8 6).toNat = (s.ch.filter fun c => c.active).length
      ∧ w.extractLsb' 3 5 = 0 ∧ w.extractLsb' 14 18 = 0)

/-- R362 with R98: the `ACQ.STAT` word field by field, and nothing else. -/
def Obligations.AcqStatReportsEngine : Prop :=
  ∀ s : State, s.sys.mode = .run → s.acq.found.length ≤ 32 →
    ∃ w : Word,
      exec .acqStat s = .next { s with cmd := { s.cmd with resi := w } }
      ∧ w.extractLsb' 0 2 = acqCode s.acq.state
      ∧ (w.extractLsb' 2 6).toNat = s.acq.found.length
      ∧ w.extractLsb' 8 24 = 0

/-- R363 with R99: the `CH.STAT` word field by field, frequency and code offset of an active channel,
the inactive word and zeros for an inactive slot, and nothing else; an id out of range is an illegal
command. -/
def Obligations.ChStatReportsChannel : Prop :=
  ∀ (s : State) (sat : BitVec 8), s.sys.mode = .run →
    (∀ c : Channel NumVal, 1 ≤ sat.toNat → sat.toNat ≤ 32 → s.ch[sat.toNat - 1]? = some c →
      (c.active = true → ∃ w : Word,
        exec (.chStat sat) s = .next { s with
          cmd := { s.cmd with
            resi := w
            res0 := Config.num.div (Config.num.mul c.nco.inc (Config.num.ofNat s.cfg.fsHz))
              Config.num.twoPi
            res1 := Config.num.ofInt c.codeOff } }
        ∧ w.extractLsb' 0 3 = lockCode c.state ∧ w.getLsbD 3 = true ∧ w.getLsbD 4 = c.alive
        ∧ (w.getLsbD 5 = true ↔ c.polarity = .neg) ∧ w.extractLsb' 6 26 = 0)
      ∧ (c.active = false →
        exec (.chStat sat) s = .next { s with
          cmd := { s.cmd with
            resi := 0x00000006#32, res0 := Config.num.zero, res1 := Config.num.zero } }))
    ∧ (¬(1 ≤ sat.toNat ∧ sat.toNat ≤ 32) → exec (.chStat sat) s = .next (afterIllegalCommand s))

/-! ## Invariants of every step -/

/-- Every step keeps every memory space at the length R60 gives it. In mode FATAL R43 leaves the spaces
unspecified: that they have these lengths there too, `N` by the division of R2 rounded down, is the model's
choice (log entry 9), and the code tables are asked for in RUN only. -/
def Obligations.StepKeepsMemoryForm : Prop :=
  ∀ s t : State, Memory.wf s.toBlock = true → step s = .next t → Memory.wf t.toBlock = true

/-- Every step keeps the sample clock: block fill and timestamp follow `sys.sidx`
(47_dispatcher_host.md R342). -/
def Obligations.StepKeepsSampleClock : Prop :=
  ∀ s t : State, whileRunning SampleClock s.toBlock → step s = .next t →
    whileRunning SampleClock t.toBlock

/-- Every step keeps the acquisition engine's bounds (43_acquisition.md R192, R193, R196, R202). -/
def Obligations.StepKeepsAcquisitionBounds : Prop :=
  ∀ s t : State, whileRunning (fun b => AcqBounds b.cfg b.acq) s.toBlock → step s = .next t →
    whileRunning (fun b => AcqBounds b.cfg b.acq) t.toBlock

/-- Every step keeps every active channel within the bounds of 10_state.md R32 to R38, alive, and
with a valid offset once it has left `OFFSET_ACQUIRE` (45_tracking_fsm.md R255). -/
def Obligations.StepKeepsChannelsBounded : Prop :=
  ∀ s t : State, whileRunning ChannelsBounded s.toBlock → step s = .next t →
    whileRunning ChannelsBounded t.toBlock

/-- The four invariants hold at the reset state, and it is running. The configuration it takes is the model's
(log entry 4). -/
def Obligations.InvariantsHoldAtReset : Prop :=
  Memory.wf State.reset.toBlock = true
    ∧ whileRunning SampleClock State.reset.toBlock
    ∧ whileRunning (fun b => AcqBounds b.cfg b.acq) State.reset.toBlock
    ∧ whileRunning ChannelsBounded State.reset.toBlock
    ∧ State.reset.sys.mode = .run

/-- Over exact reals every command keeps every oscillator's phase in `[0, 2π)`, and reset puts it
there (40_nco.md R120). -/
def Obligations.ExactPhasesStayWrapped : Prop :=
  (∀ (i : Instr) (b b' : Block ℝ), phasesWrapped b → performOver exactNum i b = .next b' →
    phasesWrapped b')
  ∧ (∀ (cfg : Cfg) (draws : Nat), phasesWrapped (blockReset exactNum cfg draws))

/-! ## Numerics, oscillator, transforms -/

/-- R7 over exact reals: the wrapping and angle functions, their formulas and their intervals. -/
def Obligations.ExactAngleFunctions : Prop :=
  (∀ x : ℝ, exactNum.wrap2pi x = x - 2 * Real.pi * ⌊x / (2 * Real.pi)⌋
    ∧ 0 ≤ exactNum.wrap2pi x ∧ exactNum.wrap2pi x < 2 * Real.pi)
  ∧ (∀ x : ℝ, exactNum.wrappi x = exactNum.wrap2pi (x + Real.pi) - Real.pi
    ∧ -Real.pi ≤ exactNum.wrappi x ∧ exactNum.wrappi x < Real.pi)
  ∧ (∀ x : ℝ, -Real.pi < x → x ≤ Real.pi →
    (Real.pi / 2 < x → exactNum.fold x = x - Real.pi)
    ∧ (x ≤ -(Real.pi / 2) → exactNum.fold x = x + Real.pi)
    ∧ (-(Real.pi / 2) < x → x ≤ Real.pi / 2 → exactNum.fold x = x)
    ∧ -(Real.pi / 2) < exactNum.fold x ∧ exactNum.fold x ≤ Real.pi / 2)
  ∧ (∀ z : Cx ℝ, -Real.pi < exactNum.arg z ∧ exactNum.arg z ≤ Real.pi
    ∧ z.re = exactNum.mag z * Real.cos (exactNum.arg z)
    ∧ z.im = exactNum.mag z * Real.sin (exactNum.arg z)
    ∧ exactNum.mag z = Real.sqrt (z.re ^ 2 + z.im ^ 2) ∧ exactNum.mag2 z = z.re ^ 2 + z.im ^ 2
    ∧ exactNum.conj z = ⟨z.re, -z.im⟩)
  ∧ exactNum.arg ⟨0, 0⟩ = 0
  ∧ (∀ x : ℝ, (0 ≤ x → exactNum.sgn x = .pos) ∧ (x < 0 → exactNum.sgn x = .neg))

/-- R8 over exact reals: `argmax` is the least index at which the maximum is attained. -/
def Obligations.ArgmaxIsLeastMaximum : Prop :=
  ∀ a : List ℝ, a ≠ [] →
    exactNum.argmax a < a.length
    ∧ (∀ k, k < a.length → a.getD k 0 ≤ a.getD (exactNum.argmax a) 0)
    ∧ (∀ j, j < a.length → (∀ k, k < a.length → a.getD k 0 ≤ a.getD j 0) → exactNum.argmax a ≤ j)

/-- Over exact reals `evaluate()` has unit magnitude, `k` calls after `set_frequency(f)` advance the
phase by `2πf/fs·k` modulo `2π`, and `add_frequency` after `set_frequency` adds the frequencies
(40_nco.md R121, R123). -/
def Obligations.ExactOscillatorLaws : Prop :=
  (∀ o : Osc ℝ, exactNum.mag (oscOut exactNum o) = 1)
  ∧ (∀ (cfg : Cfg) (f : ℝ) (o : Osc ℝ) (k : Nat), phaseWrapped o →
    (oscAdvanceN exactNum k (oscSetFrequency exactNum cfg f o)).phase
      = exactNum.wrap2pi (o.phase + 2 * Real.pi * f / cfg.fsHz * k))
  ∧ (∀ (cfg : Cfg) (f df : ℝ) (o : Osc ℝ),
    oscAddFrequency exactNum cfg df (oscSetFrequency exactNum cfg f o)
      = oscSetFrequency exactNum cfg (f + df) o)

/-- R170 and R171 over exact reals: the two transforms are the sums the rules write, and the inverse
undoes the forward one. -/
def Obligations.TransformsAreInverse : Prop :=
  (∀ (n : Nat) (y : List (Cx ℝ)) (k : Nat), 0 < n → toComplex (dftBin exactNum n y k)
    = ∑ m ∈ Finset.range n, toComplex (y.getD m ⟨0, 0⟩)
        * Complex.exp (-(2 * Real.pi * k * m / n : ℝ) * Complex.I))
  ∧ (∀ (n : Nat) (z : List (Cx ℝ)) (m : Nat), 0 < n → toComplex (idftBin exactNum n z m)
    = (1 / (n : ℂ)) * ∑ k ∈ Finset.range n, toComplex (z.getD k ⟨0, 0⟩)
        * Complex.exp ((2 * Real.pi * k * m / n : ℝ) * Complex.I))
  ∧ (∀ (n : Nat) (y : List (Cx ℝ)), 0 < n → y.length = n → idft exactNum n (dft exactNum n y) = y)

/-- Over exact reals the correlation of a buffer against a code's spectrum is the circular
cross-correlation of the buffer with the oversampled code (42_correlator.md R174); the oversampled code
holds each chip for `SPC` samples, chip 0 as `+1` and chip 1 as `−1` (41_codegen.md R147, R148). -/
def Obligations.CorrelationClosedForm : Prop :=
  (∀ (cfg : Cfg) (code : List Bool) (y : List (Cx ℝ)) (m : Nat),
    0 < cfg.n → y.length = cfg.n → m < cfg.n →
    toComplex ((corr exactNum cfg.n (codeSpectrum exactNum cfg code) y).getD m ⟨0, 0⟩)
      = circularCorrelation (oversample exactNum cfg code) y m)
  ∧ (∀ (cfg : Cfg) (code : List Bool), (oversample exactNum cfg code).length = 1023 * cfg.spc
    ∧ ∀ (j k : Nat) (chip : Bool), j < 1023 → k < cfg.spc → code[j]? = some chip →
      (oversample exactNum cfg code)[j * cfg.spc + k]? = some ⟨if chip = true then -1 else 1, 0⟩)

/-- R176 and R177: the signed offset is the peak index taken to the half-open interval around 0, the
exact half period positive, and it is valid when four times its magnitude is at most `SPC`. -/
def Obligations.SignedOffsetAndValidity : Prop :=
  (∀ n m : Nat, m < n →
    (2 * m ≤ n → signedOffset n m = m) ∧ (n < 2 * m → signedOffset n m = (m : Int) - n)
    ∧ -(n : Int) < 2 * signedOffset n m ∧ 2 * signedOffset n m ≤ n)
  ∧ (∀ (spc : Nat) (o : Int), offsetValid spc o = true ↔ 4 * |o| ≤ (spc : Int))

/-! ## Codes -/

/-- R154: the first ten chips of each satellite's code, chip 0 leftmost, in octal; and chips 1015 to 1022,
the last of the 1023, in binary (95_test_vectors.md section 2.1). -/
def Obligations.FirstTenAndLastEightChips : Prop :=
  (∀ s, 1 ≤ s → s ≤ 32 → (goldGen s).1.length = 1023)
  ∧ ((List.range 32).map fun i => ((goldGen (i + 1)).1.take 10).foldl (fun v c => 2 * v + c.toNat) 0)
    = [0o1440, 0o1620, 0o1710, 0o1744, 0o1133, 0o1455, 0o1131, 0o1454,
       0o1626, 0o1504, 0o1642, 0o1750, 0o1764, 0o1772, 0o1775, 0o1776,
       0o1156, 0o1467, 0o1633, 0o1715, 0o1746, 0o1763, 0o1063, 0o1706,
       0o1743, 0o1761, 0o1770, 0o1774, 0o1127, 0o1453, 0o1625, 0o1712]
  ∧ ((List.range 32).map fun i => ((goldGen (i + 1)).1.drop 1015).foldl (fun v c => 2 * v + c.toNat) 0)
    = [0b00010000, 0b11001000, 0b00100100, 0b01010010, 0b01110010, 0b01111001,
       0b01100100, 0b01110010, 0b11111001, 0b00000000, 0b01000000, 0b00110000,
       0b11011000, 0b10101100, 0b10010110, 0b10001011, 0b11000000, 0b10100000,
       0b10010000, 0b00001000, 0b01000100, 0b11100010, 0b00000000, 0b01010000,
       0b01101000, 0b11110100, 0b10111010, 0b10011101, 0b00010000, 0b01001000,
       0b11100100, 0b00110010]

/-- R142 and R143: one step of `G1` and of a satellite's `G2` moves every stage up by one, stage `i` being bit
`i − 1`, and brings the exclusive or of stages 3, 10 and of stages 2, 3, 6, 8, 9, 10 into stage 1; the taps
stay. For each satellite both registers start at all ones and are back there after the 1023 steps of its
code, and neither is after any smaller positive number of steps (41_codegen.md R140, R141, R146). -/
def Obligations.RegistersStepWithPeriod1023 : Prop :=
  ∀ s, 1 ≤ s → s ≤ 32 →
    (∀ x : BitVec 10,
      lfsrStep { g1Init with stage := x } = { g1Init with
        stage := x.extractLsb' 0 9 ++ BitVec.ofBool (x.getLsbD 2 ^^ x.getLsbD 9) }
      ∧ lfsrStep { g2Init s with stage := x } = { g2Init s with
        stage := x.extractLsb' 0 9 ++ BitVec.ofBool (x.getLsbD 1 ^^ x.getLsbD 2 ^^ x.getLsbD 5
          ^^ x.getLsbD 7 ^^ x.getLsbD 8 ^^ x.getLsbD 9) })
    ∧ (goldGen s).2.1 = g1Init ∧ (goldGen s).2.2 = g2Init s
      ∧ g1Init.stage = 0x3FF#10 ∧ (g2Init s).stage = 0x3FF#10
      ∧ ∀ k, 0 < k → k < 1023 →
        (goldRun k g1Init (g2Init s)).2.1.stage ≠ 0x3FF#10 ∧ (goldRun k g1Init (g2Init s)).2.2.stage ≠ 0x3FF#10

/-! ## Acquisition -/

/-- R190 to R193: what one sample does to the acquisition engine in each of its states. A capture is
`N_EPOCHS · N` samples long. -/
def Obligations.AcquisitionFeedByState : Prop :=
  ∀ (α : Type) (cfg : Cfg) (x : Cx α) (a : AcqEngine α), 1 < cfg.nEpochs * cfg.n →
    cfg.captureLen = cfg.nEpochs * cfg.n
    ∧ (a.state = .idle → cfg.trigSamples ≤ a.timer → acqFeed cfg x a =
      { a with state := .collecting, buf := memWrite a.buf 0 x, fill := 1, timer := 1 })
    ∧ (a.state = .idle → a.timer < cfg.trigSamples → acqFeed cfg x a = { a with timer := a.timer + 1 })
    ∧ (a.state = .collecting → a.fill + 1 ≠ cfg.nEpochs * cfg.n → acqFeed cfg x a =
      { a with buf := memWrite a.buf a.fill x, fill := a.fill + 1, timer := a.timer + 1 })
    ∧ (a.state = .collecting → a.fill + 1 = cfg.nEpochs * cfg.n → acqFeed cfg x a =
      { a with
        state := .searching, wait := 0
        buf := memWrite a.buf a.fill x, fill := a.fill + 1, timer := a.timer + 1 })
    ∧ (a.state = .searching ∨ a.state = .resultsReady → acqFeed cfg x a =
      { a with timer := a.timer + 1 })

/-- R198 over exact reals: peak over mean, 0 when the mean is 0; between 1 and `N` when it is not. -/
def Obligations.ExactDetectionRatio : Prop :=
  ∀ acc : List ℝ, acc ≠ [] → (∀ x ∈ acc, 0 ≤ x) →
    let mean := 1 / (acc.length : ℝ) * acc.sum
    (mean = 0 → accRatio exactNum acc.length acc = 0)
    ∧ (0 < mean → ∃ peak ∈ acc, (∀ x ∈ acc, x ≤ peak)
      ∧ accRatio exactNum acc.length acc = peak / mean
      ∧ 1 ≤ accRatio exactNum acc.length acc ∧ accRatio exactNum acc.length acc ≤ acc.length)

/-- R194: the hypotheses, `H = 2·F_SEARCH_MAX/50 + 1` of them, `f_h = −F_SEARCH_MAX + 50·h`. R195: sample `i`
of the capture is mixed with output `i` of a fresh oscillator set to `f_h`. R197: at each lag the magnitude of
the correlation waveform is summed over the epochs of `N` samples. Over exact reals the sweep keeps, for a
satellite, the greatest ratio over the hypotheses and the frequency of the first hypothesis that reaches it
(43_acquisition.md R196, R200). -/
def Obligations.SweepTriesHypothesesKeepsFirstMaximum : Prop :=
  (∀ cfg : Cfg, cfg.hypotheses = 2 * cfg.fSearchMax / 50 + 1
    ∧ ∀ h : Nat, cfg.hypothesis h = -(cfg.fSearchMax : Int) + 50 * h)
  ∧ (∀ (α : Type) (num : Numerics α) (cfg : Cfg) (capture : List (Cx α)) (h : Nat),
    let inc := num.div (num.mul num.twoPi (num.ofInt (-(cfg.fSearchMax : Int) + 50 * h))) (num.ofNat cfg.fsHz)
    let osc (i : Nat) : Osc α := oscAdvanceN num i ⟨num.zero, inc⟩
    (downConvert num cfg capture h).1
      = capture.zipIdx.map fun p => num.cmul p.1 ⟨num.cos (osc p.2).phase, num.sin (osc p.2).phase⟩)
  ∧ (∀ (α : Type) (num : Numerics α) (cfg : Cfg) (spec d : List (Cx α)),
    let magnitude (m e : Nat) : α :=
      num.mag ((corr num cfg.n spec ((d.drop (e * cfg.n)).take cfg.n)).getD m ⟨num.zero, num.zero⟩)
    accumulate num cfg spec d = (List.range cfg.n).map fun m =>
      ((List.range cfg.nEpochs).map (magnitude m)).foldl num.add num.zero)
  ∧ (∀ (cfg : Cfg) (spec capture : List (Cx ℝ)),
    let ratios := (List.range cfg.hypotheses).map fun h =>
      accRatio exactNum cfg.n (accumulate exactNum cfg spec (downConvert exactNum cfg capture h).1)
    let h := exactNum.argmax ratios
    (sweepSat exactNum cfg spec capture).ratio = ratios.getD h 0
      ∧ (sweepSat exactNum cfg spec capture).freq = (cfg.hypothesis h : ℝ))

/-- A completed sweep leaves, for each satellite, its best ratio and frequency in `acq.best_ratio` and
`acq.best_freq`, satellite 1 first, and reports, in ascending order, exactly the satellites whose best ratio
is not below 3.0, each with its ratio and frequency; the results are then ready (43_acquisition.md R196,
R199, 10_state.md R29). -/
def Obligations.FoundExactlyAboveThreshold : Prop :=
  ∀ (α : Type) (num : Numerics α) (b : Block α),
    let best (s : Nat) := sweepSat num b.cfg (spectrumOf b s) b.acq.buf
    let a := (acqSweep num b).acq
    a.state = .resultsReady
    ∧ a.bestRatio = (List.range 32).map (fun i => (best (i + 1)).ratio)
    ∧ a.bestFreq = (List.range 32).map (fun i => (best (i + 1)).freq)
    ∧ (a.found.Pairwise fun x y => x.sat < y.sat)
    ∧ ∀ x : Found α, x ∈ a.found ↔
      1 ≤ x.sat ∧ x.sat ≤ 32 ∧ x.ratio = (best x.sat).ratio ∧ x.freq = (best x.sat).freq
        ∧ num.lt x.ratio (num.lit 3 1) = false

/-- R201: at a poll of a sweep in flight, `SWEEP_LATENCY = L` completes it exactly when `L` block
boundaries have been waited; otherwise one more is waited and nothing else changes. Without a latency
the draw decides, and the draws are not false for ever (their free values are the model's: log entry 5). -/
def Obligations.SweepCompletesByLatency : Prop :=
  (∀ (α : Type) (num : Numerics α) (b : Block α), b.acq.state = .searching →
    (∀ l, b.cfg.sweepLatency = some l → acqPoll num b =
      if l ≤ b.acq.wait then acqReport num (acqSweep num b)
      else { b with acq := { b.acq with wait := b.acq.wait + 1 } })
    ∧ (b.cfg.sweepLatency = none → acqPoll num b =
      if sweepDone b.draws = true then acqReport num (acqSweep num { b with draws := b.draws + 1 })
      else { b with draws := b.draws + 1, acq := { b.acq with wait := b.acq.wait + 1 } }))
  ∧ (∀ n, ∃ m, n ≤ m ∧ sweepDone m = true)

/-- The report of a completed sweep: a found satellite whose slot is inactive is promoted to a fresh
channel at the reported frequency, every other slot is left alone, and the engine is `IDLE`
(43_acquisition.md R202, R203). The fresh channel holds the creation values (10_state.md R30 to R39); that
its unspecified fields are those of `channelNew` is the model's choice (log entry 8). -/
def Obligations.PromotionOnlyOfInactive : Prop :=
  ∀ (α : Type) (num : Numerics α) (b : Block α), b.ch.length = 32 →
    (∀ x ∈ b.acq.found, 1 ≤ x.sat ∧ x.sat ≤ 32) → (b.acq.found.Pairwise fun x y => x.sat < y.sat) →
    let t := acqReport num b
    t.acq.state = .idle
    ∧ (∀ x ∈ b.acq.found, (channelAt num b x.sat).active = false →
        t.ch[x.sat - 1]? = some { channelNew num b.cfg with
          active := true, alive := true, state := .offsetAcquire
          nco := oscSetFrequency num b.cfg x.freq (oscNew num) }
        ∧ ∃ c, t.ch[x.sat - 1]? = some c ∧ CreationValues num b.cfg x.freq c)
    ∧ (∀ i c, b.ch[i]? = some c →
        (c.active = true ∨ ∀ x ∈ b.acq.found, x.sat ≠ i + 1) → t.ch[i]? = some c)

/-! ## Tracking -/

/-- R221: one delivered sample: ignored by a channel that is not alive; else mixed with one oscillator
output, then skipped, or stored, or stored as the last of its period. R226: a complete period is
correlated, its peak (R175) gives offset and value to the state machine, and a channel still alive starts
its next period. -/
def Obligations.ChannelFeedFollowsRule : Prop :=
  ∀ (α : Type) (num : Numerics α) (cfg : Cfg) (spec : List (Cx α)) (s : Nat) (x : Cx α) (c : Channel α),
    let y := num.cmul x ⟨num.cos c.nco.phase, num.sin c.nco.phase⟩
    let o : Osc α := { c.nco with phase := num.wrap2pi (num.add c.nco.phase c.nco.inc) }
    let stored : Channel α := { c with nco := o, buf := memWrite c.buf c.fill y, fill := c.fill + 1 }
    (c.alive = false → chFeed num cfg spec s x c = ⟨c, []⟩)
    ∧ (c.alive = true → 0 < c.skip →
        chFeed num cfg spec s x c = ⟨{ c with nco := o, skip := c.skip - 1 }, []⟩)
    ∧ (c.alive = true → c.skip = 0 → c.fill + 1 ≠ cfg.n → chFeed num cfg spec s x c = ⟨stored, []⟩)
    ∧ (c.alive = true → c.skip = 0 → c.fill + 1 = cfg.n →
        chFeed num cfg spec s x c = chPeriod num cfg spec s stored)
    ∧ (let w := corr num cfg.n spec c.buf
       let m := num.argmax (w.map num.mag)
       let o := signedOffset cfg.n m
       let t := trkStep num cfg s (offsetValid cfg.spc o) (w.getD m ⟨num.zero, num.zero⟩)
        { c with codeOff := o }
       chPeriod num cfg spec s c
        = ⟨if t.ch.alive = true then startPeriod cfg t.ch else t.ch, t.evs⟩)

/-- R224: the start of a new period after the offset: samples to skip, samples re-used from the end of
the buffer, and `N + o` samples to be delivered until it is full. -/
def Obligations.NewPeriodAfterOffset : Prop :=
  ∀ (α : Type) (cfg : Cfg) (c : Channel α), c.buf.length = cfg.n →
    -(cfg.n : Int) < 2 * c.codeOff → 2 * c.codeOff ≤ cfg.n →
    let d := startPeriod cfg c
    let k := c.codeOff.natAbs
    d = { c with buf := d.buf, skip := d.skip, fill := d.fill }
    ∧ (0 < c.codeOff → d.skip = k ∧ d.fill = 0 ∧ d.buf = c.buf)
    ∧ (c.codeOff = 0 → d.skip = 0 ∧ d.fill = 0 ∧ d.buf = c.buf)
    ∧ (c.codeOff < 0 → d.skip = 0 ∧ d.fill = k
      ∧ (∀ i, i < k → d.buf[i]? = c.buf[cfg.n - k + i]?) ∧ (∀ i, k ≤ i → d.buf[i]? = c.buf[i]?))
    ∧ (cfg.n : Int) - d.fill + d.skip = cfg.n + c.codeOff

/-- R274: one period changes the lock state at most once, by a transition of the table with the cause
the table gives it, reported by exactly one `STATE` event. -/
def Obligations.TransitionsAreTheTable : Prop :=
  ∀ (α : Type) (num : Numerics α) (cfg : Cfg) (s : Nat) (offOk : Bool) (peak : Cx α) (c : Channel α),
    let t := trkStep num cfg s offOk peak c
    let changes := t.evs.filter fun e => match e with
      | .stateChange _ _ _ _ => true
      | _ => false
    (changes = [] ∧ t.ch.state = c.state)
    ∨ (∃ cause, changes = [.stateChange s c.state t.ch.state cause]
        ∧ transitionListed c.state t.ch.state cause = true)

/-- A period whose check loses the signal leaves the channel not alive, and no other period does; a channel
that is not alive ignores a whole block: nothing of it changes and it emits nothing (45_tracking_fsm.md
R252, R275, 44_tracking_frontend.md R229). -/
def Obligations.OnlyLossStopsAChannel : Prop :=
  ∀ (α : Type) (num : Numerics α) (cfg : Cfg) (s : Nat),
    (∀ (offOk : Bool) (peak : Cx α) (c : Channel α), c.alive = true → c.state ≠ .signalLost →
      ((trkStep num cfg s offOk peak c).ch.alive = false
        ↔ (trkStep num cfg s offOk peak c).ch.state = .signalLost))
    ∧ (∀ (spec xs : List (Cx α)) (c : Channel α), c.alive = false →
      feedAll num cfg spec s xs c = ⟨c, []⟩)

/-- R253 and R254. `OFFSET_ACQUIRE` counts consecutive valid and invalid offsets, keeps the measured offset,
and leaves at the tenth of either. In a later state an invalid offset is counted and nothing else of the
period is done; the tenth in a row loses the signal, any other zeroes the offset. -/
def Obligations.OffsetsCounted : Prop :=
  ∀ (α : Type) (num : Numerics α) (cfg : Cfg) (s : Nat) (peak : Cx α) (c : Channel α),
    (c.state = .offsetAcquire →
      (c.offValid + 1 ≠ 10 → trkStep num cfg s true peak c
        = ⟨{ c with offValid := c.offValid + 1, offInvalid := 0 }, []⟩)
      ∧ (c.offValid + 1 = 10 → trkStep num cfg s true peak c
        = ⟨{ c with
              offValid := 10, offInvalid := 0, state := .frequencyAcquire
              faHavePrev := false, faSum := num.zero, faN := 0, maN := 0, maPos := 0 },
            [.stateChange s .offsetAcquire .frequencyAcquire .advance]⟩)
      ∧ (c.offInvalid + 1 ≠ 10 → trkStep num cfg s false peak c
        = ⟨{ c with offInvalid := c.offInvalid + 1, offValid := 0 }, []⟩)
      ∧ (c.offInvalid + 1 = 10 → trkStep num cfg s false peak c
        = ⟨{ c with offInvalid := 10, offValid := 0, state := .signalLost, alive := false },
            [.stateChange s .offsetAcquire .signalLost .offsetInvalid]⟩))
    ∧ (c.state ≠ .offsetAcquire → c.state ≠ .signalLost →
      (c.offInvalid + 1 ≠ 10 → trkStep num cfg s false peak c
        = ⟨{ c with offInvalid := c.offInvalid + 1, codeOff := 0 }, []⟩)
      ∧ (c.offInvalid + 1 = 10 → trkStep num cfg s false peak c
        = ⟨{ c with offInvalid := 10, state := .signalLost, alive := false },
            [.stateChange s c.state .signalLost .offsetInvalid]⟩))

/-- R256 to R263: a period with a valid offset in `FREQUENCY_ACQUIRE`. The first angle is only recorded;
later the delta is current minus previous, wrapped. A delta of π/2 or more applies what had accumulated
over its own number of periods and restarts; a smaller one is accumulated; the twentieth makes the raw
estimate, which corrects the oscillator and enters the ring, and the average below 0.02 in magnitude moves
on to `PLL_ACQUIRE`. Over exact reals the average is the mean of the last five values pushed into an empty
ring, or of all of them while they are fewer. -/
def Obligations.FrequencyStageAndAverage : Prop :=
  (∀ (α : Type) (num : Numerics α) (cfg : Cfg) (s : Nat) (peak : Cx α) (c : Channel α),
    c.state = .frequencyAcquire →
    let theta := num.arg peak
    let delta := num.wrappi (num.sub theta c.faPrev)
    let small := num.lt (num.abs delta) (num.div num.pi (num.lit 2 1))
    let sum := num.add c.faSum delta
    let seconds := num.mul num.twoPi (num.lit 1 1000)
    let corrected (f : α) : Osc α :=
      { c.nco with inc := num.add c.nco.inc (num.div (num.mul num.twoPi f) (num.ofNat cfg.fsHz)) }
    let c0 : Channel α := { c with offInvalid := 0, faPrev := theta }
    let f := num.div (num.neg sum) (num.mul seconds (num.ofNat 20))
    let ring := memWrite c.ma c.maPos f
    let size := min (c.maN + 1) 5
    let average := num.div (num.sum (ring.take size)) (num.ofNat size)
    let c1 : Channel α :=
      { c0 with
        ma := ring, maPos := (c.maPos + 1) % 5, maN := size
        nco := corrected f, faSum := num.zero, faN := 0 }
    (c.faHavePrev = false → trkStep num cfg s true peak c = ⟨{ c0 with faHavePrev := true }, []⟩)
    ∧ (c.faHavePrev = true → small = false → trkStep num cfg s true peak c
      = ⟨{ c0 with
            nco := if 0 < c.faN
              then corrected (num.div (num.neg c.faSum) (num.mul seconds (num.ofNat c.faN))) else c.nco
            faSum := num.zero, faN := 0 }, []⟩)
    ∧ (c.faHavePrev = true → small = true → c.faN + 1 ≠ 20 → trkStep num cfg s true peak c
      = ⟨{ c0 with faSum := sum, faN := c.faN + 1 }, []⟩)
    ∧ (c.faHavePrev = true → small = true → c.faN + 1 = 20 →
      num.lt (num.abs average) (num.lit 2 100) = false → trkStep num cfg s true peak c = ⟨c1, []⟩)
    ∧ (c.faHavePrev = true → small = true → c.faN + 1 = 20 →
      num.lt (num.abs average) (num.lit 2 100) = true → trkStep num cfg s true peak c
      = ⟨{ c1 with
            state := .pllAcquire, pllN := 0, pllMean := num.zero, pllVar := num.zero
            iqValid := 0, iqInvalid := 0 },
          [.stateChange s .frequencyAcquire .pllAcquire .advance]⟩))
  ∧ (∀ (c : Channel ℝ) (vs : List ℝ), c.ma.length = 5 → c.maN = 0 → c.maPos = 0 → vs ≠ [] →
    let d := vs.foldl (fun c v => maPush v c) c
    let recent := vs.drop (vs.length - 5)
    maAverage exactNum d = recent.sum / recent.length)

/-- R265 over exact reals: the Costas error is 0 at 0 and `2·re·im/|p|²` elsewhere, the sine of twice
the angle, in `[−1, 1]`, and a sign flip of the peak does not change it. -/
def Obligations.ExactCostasError : Prop :=
  costas exactNum ⟨0, 0⟩ = 0
  ∧ ∀ p : Cx ℝ, (p.re ≠ 0 ∨ p.im ≠ 0) →
    costas exactNum p = 2 * p.re * p.im / (p.re ^ 2 + p.im ^ 2)
    ∧ costas exactNum p = Real.sin (2 * exactNum.arg p)
    ∧ -1 ≤ costas exactNum p ∧ costas exactNum p ≤ 1
    ∧ costas exactNum ⟨-p.re, -p.im⟩ = costas exactNum p

/-- R267 over exact reals: the phase check holds exactly when `|re| > |im|`, the zero peak counted
valid. -/
def Obligations.PhaseCheckIsQuadrant : Prop :=
  ∀ p : Cx ℝ, iqOk exactNum p = true ↔ (|p.im| < |p.re| ∨ (p.re = 0 ∧ p.im = 0))

/-- R266 over exact reals: an error is buffered; the fifth makes the loop update: mean and variance,
`−mean·0.0625` Hz, `−mean·π/400` rad, buffer emptied. -/
def Obligations.ExactLoopUpdate : Prop :=
  ∀ (cfg : Cfg) (e : ℝ) (c : Channel ℝ), c.pllErr.length = 5 →
    (c.pllN + 1 ≠ 5 → pllPush exactNum cfg e c
      = { c with pllErr := memWrite c.pllErr c.pllN e, pllN := c.pllN + 1 })
    ∧ (c.pllN + 1 = 5 →
      let errs := memWrite c.pllErr 4 e
      let mean := errs.sum / 5
      pllPush exactNum cfg e c =
        { c with
          pllErr := errs, pllN := 0, pllMean := mean
          pllVar := (errs.map fun x => (x - mean) ^ 2).sum / 5
          nco :=
            { phase := exactNum.wrap2pi (c.nco.phase + -mean * (Real.pi / 400))
              inc := c.nco.inc + 2 * Real.pi * (-mean * 0.0625) / cfg.fsHz } })

/-- R250 with R268 and R269: a period with a valid offset in each lock state from `PLL_ACQUIRE` on, of a
channel that is alive. The invalid count restarts and the loop takes the Costas error (R264). In
`PLL_ACQUIRE` 200 consecutive valid phase checks advance and an invalid one restarts the count; later ten
consecutive invalid ones lose the signal and no bit rule runs, and otherwise the bit rule of the state runs
after the count. -/
def Obligations.ValidPeriodByState : Prop :=
  ∀ (α : Type) (num : Numerics α) (cfg : Cfg) (s : Nat) (peak : Cx α) (c : Channel α),
    c.alive = true →
    let ok := iqOk num peak
    let step := trkStep num cfg s true peak c
    let d := pllPush num cfg (costas num peak) { c with offInvalid := 0 }
    let counted : Channel α := { d with iqInvalid := if ok = true then 0 else c.iqInvalid + 1 }
    let later := c.state = .bitAcquire ∨ c.state = .preambleAcquire ∨ c.state = .subframeAcquire
    (c.state = .pllAcquire → ok = false → step = ⟨{ d with iqValid := 0 }, []⟩)
    ∧ (c.state = .pllAcquire → ok = true → c.iqValid + 1 ≠ 200 →
      step = ⟨{ d with iqValid := c.iqValid + 1 }, []⟩)
    ∧ (c.state = .pllAcquire → ok = true → c.iqValid + 1 = 200 →
      step = ⟨{ d with
            iqValid := 200, state := .bitAcquire, bsHavePrev := false, bitSum := 0, bitCnt := 0 },
          [.stateChange s .pllAcquire .bitAcquire .advance]⟩)
    ∧ (later → ok = false → c.iqInvalid + 1 = 10 →
      step = ⟨{ d with iqInvalid := 10, state := .signalLost, alive := false },
        [.stateChange s c.state .signalLost .iqInvalid]⟩)
    ∧ (c.state = .bitAcquire → (ok = true ∨ c.iqInvalid + 1 ≠ 10) →
      step = bitSyncStage num s peak counted)
    ∧ (c.state = .preambleAcquire ∨ c.state = .subframeAcquire → (ok = true ∨ c.iqInvalid + 1 ≠ 10) →
      step = bitStage num s peak counted)

/-- R270: in `BIT_ACQUIRE` the first period records its sign, and the first change of sign goes to
`PREAMBLE_ACQUIRE` and is the first period of a bit window. R271 to R273: in a window signs are summed; at
the twentieth period a total of zero loses bit synchronisation, any other gives the bit `1` exactly when
total times polarity is positive, reported and fed to the bit register. -/
def Obligations.BitWindowDecides : Prop :=
  ∀ (α : Type) (num : Numerics α) (s : Nat) (peak : Cx α) (c : Channel α),
    let total := c.bitSum + (num.sgn peak.re).toInt
    let c1 : Channel α := { c with bitSum := 0, bitCnt := 0 }
    let bit := decide (0 < total * c.polarity.toInt)
    let sg := num.sgn peak.re
    (c.bsHavePrev = false →
      bitSyncStage num s peak c = ⟨{ c with bsPrev := sg, bsHavePrev := true }, []⟩)
    ∧ (c.bsHavePrev = true → sg = c.bsPrev → bitSyncStage num s peak c = ⟨c, []⟩)
    ∧ (c.bsHavePrev = true → sg ≠ c.bsPrev → c.state = .bitAcquire →
      bitSyncStage num s peak c
        = ⟨{ c with
              bsPrev := sg, state := .preambleAcquire, wreg := 0, wbits := 0, polarity := .pos
              bitSum := sg.toInt, bitCnt := 1 },
            [.stateChange s .bitAcquire .preambleAcquire .advance]⟩)
    ∧ (c.bitCnt + 1 ≠ 20 → bitStage num s peak c = ⟨{ c with bitSum := total, bitCnt := c.bitCnt + 1 }, []⟩)
    ∧ (c.bitCnt + 1 = 20 → total = 0 → bitStage num s peak c
      = ⟨{ c1 with state := .bitAcquire, bsHavePrev := false },
          [.bitsyncLost s, .stateChange s c.state .bitAcquire .bitsync]⟩)
    ∧ (c.bitCnt + 1 = 20 → total ≠ 0 → bitStage num s peak c
      = ⟨(chBit num s bit c1).ch, .navBit s bit :: (chBit num s bit c1).evs⟩)

/-! ## Navigation words -/

/-- R311 and R312: the parity equations are the six masks over the 30-bit register, and an encoded word
validates with the previous bits it was encoded with. -/
def Obligations.ParityEquationsAreMasks : Prop :=
  ∀ (d : BitVec 24) (p29 p30 : Bool),
    let dw : NavWord := d ++ 0#6
    let par : NavWord → Bool := fun x => (List.range 30).foldl (fun v i => v ^^ x.getLsbD i) false
    parityBits d p29 p30 =
      BitVec.ofBool (p29 ^^ par (dw &&& 0x3B1F3480#30)) ++ BitVec.ofBool (p30 ^^ par (dw &&& 0x1D8F9A40#30))
        ++ BitVec.ofBool (p29 ^^ par (dw &&& 0x2EC7CD00#30))
        ++ BitVec.ofBool (p30 ^^ par (dw &&& 0x1763E680#30))
        ++ BitVec.ofBool (p30 ^^ par (dw &&& 0x2BB1F340#30))
        ++ BitVec.ofBool (p29 ^^ par (dw &&& 0x0B7A89C0#30))
    ∧ wordValidate (wordEncode d p29 p30) p29 p30 = true

/-- R309: a valid word becomes invalid when any one of its 30 bits is flipped, and when either previous
bit alone is changed; validity is the comparison of the recomputed parity with the received one. -/
def Obligations.SingleBitFlipInvalidates : Prop :=
  ∀ (w : NavWord) (p29 p30 : Bool),
    (wordValidate w p29 p30 = true ↔ parityBits (dataBits w p30) p29 p30 = w.extractLsb' 0 6)
    ∧ (wordValidate w p29 p30 = true →
      (∀ i, i < 30 → wordValidate (w ^^^ (1#30 <<< i)) p29 p30 = false)
      ∧ wordValidate w (!p29) p30 = false ∧ wordValidate w p29 (!p30) = false)

/-- R304: the test is the preamble in the top eight bits and parity after previous bits 0, 0, and a
word and its complement never both pass. -/
def Obligations.PreambleNeverBothWays : Prop :=
  ∀ v : NavWord,
    (tlmOk v = true ↔ v.extractLsb' 22 8 = 0b10001011#8 ∧ wordValidate v false false = true)
    ∧ ¬(tlmOk v = true ∧ tlmOk (~~~v) = true)

/-- R303 with R305 to R308: one bit in the preamble search: shifted in and counted; at 30 bits the
word, else its complement, seeds word 1 and fixes the polarity; else nothing more. -/
def Obligations.PreambleSearchByBit : Prop :=
  ∀ (α : Type) (num : Numerics α) (s : Nat) (bit : Bool) (c : Channel α), c.state = .preambleAcquire →
    let w : NavWord := (c.wreg <<< 1) ||| (BitVec.ofBool bit).setWidth 30
    let c1 : Channel α := { c with wreg := w, wbits := min (c.wbits + 1) 30 }
    let matched (v : NavWord) (pol : Sign) : Tracked α :=
      ⟨{ c1 with polarity := pol, sf := memWrite c.sf 0 v, sfBits := 30, state := .subframeAcquire },
        [.stateChange s .preambleAcquire .subframeAcquire .advance]⟩
    (c1.wbits ≠ 30 → chBit num s bit c = ⟨c1, []⟩)
    ∧ (c1.wbits = 30 → tlmOk w = true → chBit num s bit c = matched w c.polarity)
    ∧ (c1.wbits = 30 → tlmOk w = false → tlmOk (~~~w) = true →
        chBit num s bit c = matched (~~~w) c.polarity.flip)
    ∧ (c1.wbits = 30 → tlmOk w = false → tlmOk (~~~w) = false → chBit num s bit c = ⟨c1, []⟩)

/-- R310: a bit in `SUBFRAME_ACQUIRE` is placed at `sf_bits` and counted, and the 300th has the subframe
validated; the bits of ten words, most significant first, placed from the second word on after the first
is seeded, assemble those words. -/
def Obligations.SubframeAssembledInOrder : Prop :=
  (∀ (α : Type) (num : Numerics α) (s : Nat) (bit : Bool) (c : Channel α), c.state = .subframeAcquire →
    let placed : Channel α := { c with sf := placeBit c.sf c.sfBits bit, sfBits := c.sfBits + 1 }
    (c.sfBits + 1 ≠ 300 → chBit num s bit c = ⟨placed, []⟩)
    ∧ (c.sfBits + 1 = 300 → chBit num s bit c = validateSubframe num s placed))
  ∧ (∀ sf ws : List NavWord, sf.length = 10 → ws.length = 10 → sf[0]? = ws[0]? →
    (List.range 270).foldl (fun b j =>
      placeBit b (30 + j) ((ws.getD ((30 + j) / 30) 0).getLsbD (29 - (30 + j) % 30))) sf = ws)

/-- R314 with R316: the chained validation of ten words. The previous bits of word 1 are 0, 0, those of
a later word the last two bits of the word before it. The first word that fails, or index 11 when all
are valid and the last two bits are not both 0, is reported and loses the signal, nothing stored; else
the subframe is accepted. -/
def Obligations.ChainedValidationDecides : Prop :=
  ∀ (α : Type) (num : Numerics α) (s : Nat) (c : Channel α), c.sf.length = 10 →
    let word (i : Nat) : NavWord := c.sf.getD (i - 1) 0
    let p29 (i : Nat) : Bool := if i = 1 then false else (word (i - 1)).getLsbD 1
    let p30 (i : Nat) : Bool := if i = 1 then false else (word (i - 1)).getLsbD 0
    let rejected (idx : Nat) (d29 d30 : Bool) : Tracked α :=
      ⟨{ c with d29 := d29, d30 := d30, state := .signalLost, alive := false },
        [.parityFail s idx, .stateChange s c.state .signalLost .parity]⟩
    (∀ i, 1 ≤ i → i ≤ 10 → wordValidate (word i) (p29 i) (p30 i) = false →
      (∀ j, 1 ≤ j → j < i → wordValidate (word j) (p29 j) (p30 j) = true) →
      validateSubframe num s c = rejected i (p29 i) (p30 i))
    ∧ ((∀ j, 1 ≤ j → j ≤ 10 → wordValidate (word j) (p29 j) (p30 j) = true) →
      ((word 10).getLsbD 1 = true ∨ (word 10).getLsbD 0 = true →
        validateSubframe num s c = rejected 11 ((word 10).getLsbD 1) ((word 10).getLsbD 0))
      ∧ ((word 10).getLsbD 1 = false → (word 10).getLsbD 0 = false →
        validateSubframe num s c = acceptSubframe num s { c with d29 := false, d30 := false }))

/-- R317 to R322: an accepted subframe is reported with its id and fields, stored at an id of 1 to 5 and
nowhere otherwise, `FRAME_READY` follows subframe 5 once subframe 1 has been seen, and the channel
returns to `PREAMBLE_ACQUIRE` with an empty register and its polarity kept. -/
def Obligations.AcceptedSubframeKept : Prop :=
  ∀ (α : Type) (num : Numerics α) (s : Nat) (c : Channel α), c.state = .subframeAcquire →
    let t := c.sf.getD 0 0
    let hd := (c.sf.getD 1 0).extractLsb' 6 24 ^^^ (if t.getLsbD 0 = true then 0xFFFFFF#24 else 0#24)
    let id := hd.extractLsb' 2 3
    let info : SubframeMeta :=
      ⟨t.extractLsb' 8 14, t.getLsbD 7, hd.extractLsb' 7 17, hd.getLsbD 6, hd.getLsbD 5⟩
    let back (d : Channel α) : Channel α :=
      { d with sfBits := 0, state := .preambleAcquire, wreg := 0, wbits := 0 }
    (id.toNat = 0 ∨ 5 < id.toNat → acceptSubframe num s c =
      ⟨back c, [.subframe s false id c.sf info, .stateChange s .subframeAcquire .preambleAcquire .subframeDone]⟩)
    ∧ (1 ≤ id.toNat → id.toNat ≤ 5 → acceptSubframe num s c =
      ⟨back { c with
          frame := c.frame.set (id.toNat - 1) c.sf
          frameHave := c.frameHave.set (id.toNat - 1) true
          frameMeta := c.frameMeta.set (id.toNat - 1) info
          sf1Seen := c.sf1Seen || id.toNat == 1 },
        .subframe s true id c.sf info :: ((if id.toNat = 5 ∧ c.sf1Seen = true then [.frameReady s] else [])
          ++ [.stateChange s .subframeAcquire .preambleAcquire .subframeDone])⟩)

/-! ## The block boundary -/

/-- R343 with R221 and R349: the published block goes to every active slot, each sample in order through
`CH.FEED` with the satellite's code spectrum; an inactive slot is left alone; then an active slot that is not
alive becomes inactive; then the acquisition engine is polled, and a found satellite whose slot is inactive
after that is promoted (R202, R203); nothing else changes but the block's fill, which becomes 0. R389: the
events, in order: each slot's own, satellites ascending; the `SAT_DEL` of each removed channel, ascending;
then, exactly when a sweep in flight is found complete at this poll (R201), its report: `ACQ_DONE` with the
number found and for each found satellite `ACQ_RESULT` with ratio and frequency, followed at once by
`SAT_ADD` when it is promoted. The promoted channel's unspecified fields are the model's choice (log entry
8), and so is the draw counter (log entry 5). -/
def Obligations.BlockBoundaryFollowsRule : Prop :=
  (∀ (α : Type) (num : Numerics α) (cfg : Cfg) (spec : List (Cx α)) (s : Nat) (c : Channel α),
    feedAll num cfg spec s [] c = ⟨c, []⟩
    ∧ ∀ (x : Cx α) (xs : List (Cx α)),
      let first := chFeed num cfg spec s x c
      let rest := feedAll num cfg spec s xs first.ch
      feedAll num cfg spec s (x :: xs) c = ⟨rest.ch, first.evs ++ rest.evs⟩)
  ∧ (∀ (α : Type) (num : Numerics α) (b : Block α), b.ch.length = 32 → AcqBounds b.cfg b.acq →
    let t := blockDone num b
    let delivered (s : Nat) (c : Channel α) : Tracked α :=
      if c.active = true then feedAll num b.cfg (b.cg.spec.getD (s - 1) []) s b.sys.blk c else ⟨c, []⟩
    let slots := b.ch.zipIdx.map fun p => (delivered (p.2 + 1) p.1).ch
    let reported : Prop := b.acq.state = .searching ∧ sweepComplete b = true
    let promoted (x : Found α) : Bool :=
      !(slots[x.sat - 1]?).any fun c => c.active && c.alive
    t.evOut =
        b.evOut ++ (b.ch.zipIdx.flatMap fun p => (delivered (p.2 + 1) p.1).evs)
          ++ (slots.zipIdx.flatMap fun p =>
            if p.1.active = true ∧ p.1.alive = false then [.satDel (p.2 + 1)] else [])
          ++ (if reported
            then .acqDone t.acq.found.length :: t.acq.found.flatMap fun x =>
              .acqResult x.sat (promoted x) x.ratio x.freq :: (if promoted x = true then [.satAdd x.sat] else [])
            else [])
      ∧ (∀ i c, slots[i]? = some c →
        (c.active = true ∧ c.alive = true ∨ ¬reported ∨ (∀ x ∈ t.acq.found, x.sat ≠ i + 1) →
          t.ch[i]? = some { c with active := c.active && c.alive })
        ∧ (¬(c.active = true ∧ c.alive = true) → reported → ∀ x ∈ t.acq.found, x.sat = i + 1 →
          t.ch[i]? = some { channelNew num b.cfg with
            active := true, alive := true, state := .offsetAcquire
            nco := oscSetFrequency num b.cfg x.freq (oscNew num) }))
      ∧ (reported → t.acq = { (acqSweep num b).acq with state := .idle })
      ∧ (¬reported → t.acq =
        { b.acq with wait := if b.acq.state = .searching then b.acq.wait + 1 else b.acq.wait })
      ∧ t = { b with
        sys := { b.sys with blkFill := 0 }
        acq := t.acq, ch := t.ch, evOut := t.evOut
        draws := if b.acq.state = .searching ∧ b.cfg.sweepLatency = none then b.draws + 1 else b.draws })
end

