-- ==== Sys2Proof/Laws/State.lean ====
section
/-! SUPPORT. State: one lemma for each field of the block under each named update, and for the two
parts of a channel operation's result, all true by `rfl`. -/

namespace Sys2Proof.Machine

variable {α : Type}

@[simp] theorem setChannel_cfg (s : Nat) (c : Channel α) (b : Block α) :
    (setChannel s c b).cfg = b.cfg := rfl
@[simp] theorem setChannel_sys (s : Nat) (c : Channel α) (b : Block α) :
    (setChannel s c b).sys = b.sys := rfl
@[simp] theorem setChannel_cmd (s : Nat) (c : Channel α) (b : Block α) :
    (setChannel s c b).cmd = b.cmd := rfl
@[simp] theorem setChannel_ncoH (s : Nat) (c : Channel α) (b : Block α) :
    (setChannel s c b).ncoH = b.ncoH := rfl
@[simp] theorem setChannel_cg (s : Nat) (c : Channel α) (b : Block α) :
    (setChannel s c b).cg = b.cg := rfl
@[simp] theorem setChannel_acq (s : Nat) (c : Channel α) (b : Block α) :
    (setChannel s c b).acq = b.acq := rfl
@[simp] theorem setChannel_ch (s : Nat) (c : Channel α) (b : Block α) :
    (setChannel s c b).ch = b.ch.set (s - 1) c := rfl
@[simp] theorem setChannel_evOut (s : Nat) (c : Channel α) (b : Block α) :
    (setChannel s c b).evOut = b.evOut := rfl
@[simp] theorem setChannel_draws (s : Nat) (c : Channel α) (b : Block α) :
    (setChannel s c b).draws = b.draws := rfl

@[simp] theorem emit_cfg (e : Event α) (b : Block α) :
    (emit e b).cfg = b.cfg := rfl
@[simp] theorem emit_sys (e : Event α) (b : Block α) :
    (emit e b).sys = b.sys := rfl
@[simp] theorem emit_cmd (e : Event α) (b : Block α) :
    (emit e b).cmd = b.cmd := rfl
@[simp] theorem emit_ncoH (e : Event α) (b : Block α) :
    (emit e b).ncoH = b.ncoH := rfl
@[simp] theorem emit_cg (e : Event α) (b : Block α) :
    (emit e b).cg = b.cg := rfl
@[simp] theorem emit_acq (e : Event α) (b : Block α) :
    (emit e b).acq = b.acq := rfl
@[simp] theorem emit_ch (e : Event α) (b : Block α) :
    (emit e b).ch = b.ch := rfl
@[simp] theorem emit_evOut (e : Event α) (b : Block α) :
    (emit e b).evOut = b.evOut ++ [e] := rfl
@[simp] theorem emit_draws (e : Event α) (b : Block α) :
    (emit e b).draws = b.draws := rfl

@[simp] theorem emitAll_cfg (es : List (Event α)) (b : Block α) :
    (emitAll es b).cfg = b.cfg := rfl
@[simp] theorem emitAll_sys (es : List (Event α)) (b : Block α) :
    (emitAll es b).sys = b.sys := rfl
@[simp] theorem emitAll_cmd (es : List (Event α)) (b : Block α) :
    (emitAll es b).cmd = b.cmd := rfl
@[simp] theorem emitAll_ncoH (es : List (Event α)) (b : Block α) :
    (emitAll es b).ncoH = b.ncoH := rfl
@[simp] theorem emitAll_cg (es : List (Event α)) (b : Block α) :
    (emitAll es b).cg = b.cg := rfl
@[simp] theorem emitAll_acq (es : List (Event α)) (b : Block α) :
    (emitAll es b).acq = b.acq := rfl
@[simp] theorem emitAll_ch (es : List (Event α)) (b : Block α) :
    (emitAll es b).ch = b.ch := rfl
@[simp] theorem emitAll_evOut (es : List (Event α)) (b : Block α) :
    (emitAll es b).evOut = b.evOut ++ es := rfl
@[simp] theorem emitAll_draws (es : List (Event α)) (b : Block α) :
    (emitAll es b).draws = b.draws := rfl

@[simp] theorem writeRes_cfg (x y : α) (b : Block α) :
    (writeRes x y b).cfg = b.cfg := rfl
@[simp] theorem writeRes_sys (x y : α) (b : Block α) :
    (writeRes x y b).sys = b.sys := rfl
@[simp] theorem writeRes_cmd (x y : α) (b : Block α) :
    (writeRes x y b).cmd = { b.cmd with res0 := x, res1 := y } := rfl
@[simp] theorem writeRes_ncoH (x y : α) (b : Block α) :
    (writeRes x y b).ncoH = b.ncoH := rfl
@[simp] theorem writeRes_cg (x y : α) (b : Block α) :
    (writeRes x y b).cg = b.cg := rfl
@[simp] theorem writeRes_acq (x y : α) (b : Block α) :
    (writeRes x y b).acq = b.acq := rfl
@[simp] theorem writeRes_ch (x y : α) (b : Block α) :
    (writeRes x y b).ch = b.ch := rfl
@[simp] theorem writeRes_evOut (x y : α) (b : Block α) :
    (writeRes x y b).evOut = b.evOut := rfl
@[simp] theorem writeRes_draws (x y : α) (b : Block α) :
    (writeRes x y b).draws = b.draws := rfl

@[simp] theorem writeRes0_cfg (x : α) (b : Block α) :
    (writeRes0 x b).cfg = b.cfg := rfl
@[simp] theorem writeRes0_sys (x : α) (b : Block α) :
    (writeRes0 x b).sys = b.sys := rfl
@[simp] theorem writeRes0_cmd (x : α) (b : Block α) :
    (writeRes0 x b).cmd = { b.cmd with res0 := x } := rfl
@[simp] theorem writeRes0_ncoH (x : α) (b : Block α) :
    (writeRes0 x b).ncoH = b.ncoH := rfl
@[simp] theorem writeRes0_cg (x : α) (b : Block α) :
    (writeRes0 x b).cg = b.cg := rfl
@[simp] theorem writeRes0_acq (x : α) (b : Block α) :
    (writeRes0 x b).acq = b.acq := rfl
@[simp] theorem writeRes0_ch (x : α) (b : Block α) :
    (writeRes0 x b).ch = b.ch := rfl
@[simp] theorem writeRes0_evOut (x : α) (b : Block α) :
    (writeRes0 x b).evOut = b.evOut := rfl
@[simp] theorem writeRes0_draws (x : α) (b : Block α) :
    (writeRes0 x b).draws = b.draws := rfl

@[simp] theorem writeResi_cfg (v : Word) (b : Block α) :
    (writeResi v b).cfg = b.cfg := rfl
@[simp] theorem writeResi_sys (v : Word) (b : Block α) :
    (writeResi v b).sys = b.sys := rfl
@[simp] theorem writeResi_cmd (v : Word) (b : Block α) :
    (writeResi v b).cmd = { b.cmd with resi := v } := rfl
@[simp] theorem writeResi_ncoH (v : Word) (b : Block α) :
    (writeResi v b).ncoH = b.ncoH := rfl
@[simp] theorem writeResi_cg (v : Word) (b : Block α) :
    (writeResi v b).cg = b.cg := rfl
@[simp] theorem writeResi_acq (v : Word) (b : Block α) :
    (writeResi v b).acq = b.acq := rfl
@[simp] theorem writeResi_ch (v : Word) (b : Block α) :
    (writeResi v b).ch = b.ch := rfl
@[simp] theorem writeResi_evOut (v : Word) (b : Block α) :
    (writeResi v b).evOut = b.evOut := rfl
@[simp] theorem writeResi_draws (v : Word) (b : Block α) :
    (writeResi v b).draws = b.draws := rfl

@[simp] theorem writeOperands_cfg (x y : Option α) (b : Block α) :
    (writeOperands x y b).cfg = b.cfg := rfl
@[simp] theorem writeOperands_sys (x y : Option α) (b : Block α) :
    (writeOperands x y b).sys = b.sys := rfl
@[simp] theorem writeOperands_cmd (x y : Option α) (b : Block α) :
    (writeOperands x y b).cmd = { b.cmd with opa := x.or b.cmd.opa, opb := y.or b.cmd.opb } := rfl
@[simp] theorem writeOperands_ncoH (x y : Option α) (b : Block α) :
    (writeOperands x y b).ncoH = b.ncoH := rfl
@[simp] theorem writeOperands_cg (x y : Option α) (b : Block α) :
    (writeOperands x y b).cg = b.cg := rfl
@[simp] theorem writeOperands_acq (x y : Option α) (b : Block α) :
    (writeOperands x y b).acq = b.acq := rfl
@[simp] theorem writeOperands_ch (x y : Option α) (b : Block α) :
    (writeOperands x y b).ch = b.ch := rfl
@[simp] theorem writeOperands_evOut (x y : Option α) (b : Block α) :
    (writeOperands x y b).evOut = b.evOut := rfl
@[simp] theorem writeOperands_draws (x y : Option α) (b : Block α) :
    (writeOperands x y b).draws = b.draws := rfl

@[simp] theorem setNcoH_cfg (o : Osc α) (b : Block α) :
    (setNcoH o b).cfg = b.cfg := rfl
@[simp] theorem setNcoH_sys (o : Osc α) (b : Block α) :
    (setNcoH o b).sys = b.sys := rfl
@[simp] theorem setNcoH_cmd (o : Osc α) (b : Block α) :
    (setNcoH o b).cmd = b.cmd := rfl
@[simp] theorem setNcoH_ncoH (o : Osc α) (b : Block α) :
    (setNcoH o b).ncoH = o := rfl
@[simp] theorem setNcoH_cg (o : Osc α) (b : Block α) :
    (setNcoH o b).cg = b.cg := rfl
@[simp] theorem setNcoH_acq (o : Osc α) (b : Block α) :
    (setNcoH o b).acq = b.acq := rfl
@[simp] theorem setNcoH_ch (o : Osc α) (b : Block α) :
    (setNcoH o b).ch = b.ch := rfl
@[simp] theorem setNcoH_evOut (o : Osc α) (b : Block α) :
    (setNcoH o b).evOut = b.evOut := rfl
@[simp] theorem setNcoH_draws (o : Osc α) (b : Block α) :
    (setNcoH o b).draws = b.draws := rfl

@[simp] theorem raise_illegalCommand_cfg (b : Block α) :
    (raise .illegalCommand b).cfg = b.cfg := rfl
@[simp] theorem raise_illegalCommand_sys (b : Block α) :
    (raise .illegalCommand b).sys = { b.sys with errCmd := true } := rfl
@[simp] theorem raise_illegalCommand_cmd (b : Block α) :
    (raise .illegalCommand b).cmd = { b.cmd with resi := 0xFFFFFFFF#32 } := rfl
@[simp] theorem raise_illegalCommand_ncoH (b : Block α) :
    (raise .illegalCommand b).ncoH = b.ncoH := rfl
@[simp] theorem raise_illegalCommand_cg (b : Block α) :
    (raise .illegalCommand b).cg = b.cg := rfl
@[simp] theorem raise_illegalCommand_acq (b : Block α) :
    (raise .illegalCommand b).acq = b.acq := rfl
@[simp] theorem raise_illegalCommand_ch (b : Block α) :
    (raise .illegalCommand b).ch = b.ch := rfl
@[simp] theorem raise_illegalCommand_evOut (b : Block α) :
    (raise .illegalCommand b).evOut = b.evOut := rfl
@[simp] theorem raise_illegalCommand_draws (b : Block α) :
    (raise .illegalCommand b).draws = b.draws := rfl

@[simp] theorem raise_nanSample_cfg (b : Block α) :
    (raise .nanSample b).cfg = b.cfg := rfl
@[simp] theorem raise_nanSample_sys (b : Block α) :
    (raise .nanSample b).sys = { b.sys with errNan := true } := rfl
@[simp] theorem raise_nanSample_cmd (b : Block α) :
    (raise .nanSample b).cmd = b.cmd := rfl
@[simp] theorem raise_nanSample_ncoH (b : Block α) :
    (raise .nanSample b).ncoH = b.ncoH := rfl
@[simp] theorem raise_nanSample_cg (b : Block α) :
    (raise .nanSample b).cg = b.cg := rfl
@[simp] theorem raise_nanSample_acq (b : Block α) :
    (raise .nanSample b).acq = b.acq := rfl
@[simp] theorem raise_nanSample_ch (b : Block α) :
    (raise .nanSample b).ch = b.ch := rfl
@[simp] theorem raise_nanSample_evOut (b : Block α) :
    (raise .nanSample b).evOut = b.evOut := rfl
@[simp] theorem raise_nanSample_draws (b : Block α) :
    (raise .nanSample b).draws = b.draws := rfl

@[simp] theorem raise_configFatal_cfg (b : Block α) :
    (raise .configFatal b).cfg = b.cfg := rfl
@[simp] theorem raise_configFatal_sys (b : Block α) :
    (raise .configFatal b).sys = { b.sys with mode := .fatal } := rfl
@[simp] theorem raise_configFatal_cmd (b : Block α) :
    (raise .configFatal b).cmd = b.cmd := rfl
@[simp] theorem raise_configFatal_ncoH (b : Block α) :
    (raise .configFatal b).ncoH = b.ncoH := rfl
@[simp] theorem raise_configFatal_cg (b : Block α) :
    (raise .configFatal b).cg = b.cg := rfl
@[simp] theorem raise_configFatal_acq (b : Block α) :
    (raise .configFatal b).acq = b.acq := rfl
@[simp] theorem raise_configFatal_ch (b : Block α) :
    (raise .configFatal b).ch = b.ch := rfl
@[simp] theorem raise_configFatal_evOut (b : Block α) :
    (raise .configFatal b).evOut = b.evOut ++ [.fatalConfig] := rfl
@[simp] theorem raise_configFatal_draws (b : Block α) :
    (raise .configFatal b).draws = b.draws := rfl

@[simp] theorem quiet_ch (c : Channel α) : (quiet c).ch = c := rfl
@[simp] theorem quiet_evs (c : Channel α) : (quiet c).evs = [] := rfl
@[simp] theorem andThen_ch (t : Tracked α) (f : Channel α → Tracked α) :
    (t.andThen f).ch = (f t.ch).ch := rfl
@[simp] theorem andThen_evs (t : Tracked α) (f : Channel α → Tracked α) :
    (t.andThen f).evs = t.evs ++ (f t.ch).evs := rfl

@[simp] theorem onSlots_ch (f : Nat → Channel α → Tracked α) (b : Block α) :
    (onSlots f b).ch = (forSlots f 1 b.ch).1 := rfl
@[simp] theorem onSlots_evOut (f : Nat → Channel α → Tracked α) (b : Block α) :
    (onSlots f b).evOut = b.evOut ++ (forSlots f 1 b.ch).2 := rfl
@[simp] theorem onSlots_cfg (f : Nat → Channel α → Tracked α) (b : Block α) :
    (onSlots f b).cfg = b.cfg := rfl
@[simp] theorem onSlots_sys (f : Nat → Channel α → Tracked α) (b : Block α) :
    (onSlots f b).sys = b.sys := rfl
@[simp] theorem onSlots_cmd (f : Nat → Channel α → Tracked α) (b : Block α) :
    (onSlots f b).cmd = b.cmd := rfl
@[simp] theorem onSlots_ncoH (f : Nat → Channel α → Tracked α) (b : Block α) :
    (onSlots f b).ncoH = b.ncoH := rfl
@[simp] theorem onSlots_cg (f : Nat → Channel α → Tracked α) (b : Block α) :
    (onSlots f b).cg = b.cg := rfl
@[simp] theorem onSlots_acq (f : Nat → Channel α → Tracked α) (b : Block α) :
    (onSlots f b).acq = b.acq := rfl
@[simp] theorem onSlots_draws (f : Nat → Channel α → Tracked α) (b : Block α) :
    (onSlots f b).draws = b.draws := rfl

@[simp] theorem placeBlock_toBlock (s : State) (b : Block NumVal) :
    ({ s with toBlock := b } : State).toBlock = b := rfl
@[simp] theorem placeBlock_port (s : State) (b : Block NumVal) :
    ({ s with toBlock := b } : State).port = s.port := rfl

end Sys2Proof.Machine
end

