-- ==== Sys2Proof/Laws/Ops.lean ====
section
/-! SUPPORT. Ops: for each shared operation, once, what it can do: the checks that stand before a
command's effect, the operand reads, the memory operations, the channel operations on all slots. -/

namespace Sys2Proof.Machine

variable {α : Type}

/-- What a command that respects FATAL mode can answer: nothing changed, or its own answer in RUN. -/
theorem whenRunning_next {k : Block α → BlockOutcome α} {b b' : Block α}
    (h : whenRunning k b = .next b') :
    (b.sys.mode = .fatal ∧ b' = b) ∨ (b.sys.mode = .run ∧ k b = .next b') := by
  unfold whenRunning at h
  cases hm : b.sys.mode with
  | fatal => rw [hm] at h; exact .inl ⟨rfl, by cases h; rfl⟩
  | run => rw [hm] at h; exact .inr ⟨rfl, h⟩

theorem whenRunning_run {k : Block α → BlockOutcome α} {b : Block α} (h : b.sys.mode = .run) :
    whenRunning k b = k b := by simp [whenRunning, h]

theorem whenRunning_fatal {k : Block α → BlockOutcome α} {b : Block α} (h : b.sys.mode = .fatal) :
    whenRunning k b = .next b := by simp [whenRunning, h]

/-- What a range-checked command can answer: IllegalCommand raised, or its own answer. -/
theorem whenLegal_next {ok : Bool} {k : Block α → BlockOutcome α} {b b' : Block α}
    (h : whenLegal ok k b = .next b') :
    (ok = false ∧ b' = raise .illegalCommand b) ∨ (ok = true ∧ k b = .next b') := by
  cases ok with
  | false => exact .inl ⟨rfl, by simpa [whenLegal, eq_comm] using h⟩
  | true => exact .inr ⟨rfl, by simpa [whenLegal] using h⟩

/-- A command that reads `OPA` answers a next state only when `OPA` holds a value. -/
theorem withOpa_next {k : α → Block α → BlockOutcome α} {b b' : Block α}
    (h : withOpa k b = .next b') : ∃ x, b.cmd.opa = some x ∧ k x b = .next b' := by
  unfold withOpa at h
  cases ho : b.cmd.opa with
  | none => rw [ho] at h; cases h
  | some x => rw [ho] at h; exact ⟨x, rfl, h⟩

/-- A command that reads `OPA` and `OPB` answers a next state only when both hold a value. -/
theorem withOperands_next {k : α → α → Block α → BlockOutcome α} {b b' : Block α}
    (h : withOperands k b = .next b') :
    ∃ x y, b.cmd.opa = some x ∧ b.cmd.opb = some y ∧ k x y b = .next b' := by
  unfold withOperands at h
  cases hx : b.cmd.opa with
  | none => rw [hx] at h; cases h
  | some x =>
    cases hy : b.cmd.opb with
    | none => rw [hx, hy] at h; cases h
    | some y => rw [hx, hy] at h; exact ⟨x, y, rfl, rfl, h⟩

/-- What a guarded sample can answer: its own answer, and only when it is not consumed or `err_nan` is
clear. -/
theorem whenStreamIntact_next {consumed : Bool} {k : Block α → BlockOutcome α} {b b' : Block α}
    (h : whenStreamIntact consumed k b = .next b') :
    (consumed = false ∨ b.sys.errNan = false) ∧ k b = .next b' := by
  unfold whenStreamIntact at h
  split at h
  · cases h
  · rename_i hn
    exact ⟨by cases consumed <;> simp_all, h⟩

theorem whenStreamIntact_clear {consumed : Bool} {k : Block α → BlockOutcome α} {b : Block α}
    (h : b.sys.errNan = false) : whenStreamIntact consumed k b = k b := by simp [whenStreamIntact, h]

/-- A draw that answers "done" starts the next run of draws. -/
theorem drawTally_done {n : Nat} (h : sweepDone n = true) :
    drawTally (n + 1) = ((drawTally n).1 + 1, 0) := by
  simp only [sweepDone, decide_eq_true_eq] at h
  simp [drawTally, h]

/-- A draw that answers "not done" lengthens its run by one. -/
theorem drawTally_notDone {n : Nat} (h : sweepDone n = false) :
    drawTally (n + 1) = ((drawTally n).1, (drawTally n).2 + 1) := by
  simp only [sweepDone, decide_eq_false_iff_not] at h
  simp [drawTally, h]

/-- An operation on the block, as one on the machine, leaves the port alone. -/
theorem onBlock_next {f : Block NumVal → BlockOutcome NumVal} {s t : State}
    (h : onBlock f s = .next t) : f s.toBlock = .next t.toBlock ∧ t.port = s.port := by
  unfold onBlock at h
  cases hf : f s.toBlock with
  | next b => rw [hf] at h; cases h; exact ⟨rfl, rfl⟩
  | fault r => rw [hf] at h; cases h
  | refused r => rw [hf] at h; cases h

theorem onBlock_of_next {f : Block NumVal → BlockOutcome NumVal} {s : State} {b : Block NumVal}
    (h : f s.toBlock = .next b) : onBlock f s = .next { s with toBlock := b } := by
  simp [onBlock, h]

/-- The element just written is read back (R60). -/
theorem memRead_memWrite_same {β : Type} (d v : β) (m : List β) (i : Nat) (h : i < m.length) :
    memRead d (memWrite m i v) i = v := by simp [memRead, memWrite, h]

/-- A write leaves every other element alone (R60). -/
theorem memRead_memWrite_other {β : Type} (d v : β) (m : List β) (i j : Nat) (h : i ≠ j) :
    memRead d (memWrite m i v) j = memRead d m j := by simp [memRead, memWrite, h]

/-- A write keeps the length of the space. -/
@[simp] theorem memWrite_length {β : Type} (v : β) (m : List β) (i : Nat) :
    (memWrite m i v).length = m.length := by simp [memWrite]

@[simp] theorem forSlots_length (f : Nat → Channel α → Tracked α) (s : Nat) (cs : List (Channel α)) :
    (forSlots f s cs).1.length = cs.length := by
  induction cs generalizing s with
  | nil => rfl
  | cons c cs ih => simp [forSlots, ih]

/-- Slot `i` after an operation on all slots is the operation on slot `i`. -/
theorem forSlots_getElem? (f : Nat → Channel α → Tracked α) (s i : Nat) (cs : List (Channel α)) :
    (forSlots f s cs).1[i]? = (cs[i]?).map fun c => (f (s + i) c).ch := by
  induction cs generalizing s i with
  | nil => simp [forSlots]
  | cons c cs ih =>
    cases i with
    | zero => simp [forSlots]
    | succ i => simp [forSlots, ih, Nat.add_comm, Nat.add_left_comm]

/-- A property that the operation gives every slot holds of every slot after it. -/
theorem forSlots_all {f : Nat → Channel α → Tracked α} {p q : Channel α → Prop}
    (h : ∀ s c, p c → q (f s c).ch) (s : Nat) (cs : List (Channel α)) (hp : ∀ c ∈ cs, p c) :
    ∀ c ∈ (forSlots f s cs).1, q c := by
  induction cs generalizing s with
  | nil => simp [forSlots]
  | cons c cs ih =>
    intro d hd
    simp only [forSlots, List.mem_cons] at hd
    rcases hd with rfl | hd
    · exact h s c (hp c (by simp))
    · exact ih (s + 1) (fun e he => hp e (by simp [he])) d hd

/-- A property that every delivered sample keeps is kept by a whole block. -/
theorem feedAll_keeps {num : Numerics α} {cfg : Cfg} {spec : List (Cx α)} {p : Channel α → Prop} {s : Nat}
    (h : ∀ x c, p c → p (chFeed num cfg spec s x c).ch) (xs : List (Cx α)) (c : Channel α) (hp : p c) :
    p (feedAll num cfg spec s xs c).ch := by
  induction xs generalizing c with
  | nil => exact hp
  | cons x xs ih => exact ih _ (h x c hp)

end Sys2Proof.Machine
end

