-- ==== Sys2Proof/Laws/Exact.lean ====
section
/-! SUPPORT. Exact: the machine's commands are the commands over any `NUM`, at the machine's own; and
the entries of the exact reals, true by `rfl`. -/

namespace Sys2Proof.Machine

/-- `exec` is `performOver` at the machine's numerics, lifted to the machine. -/
theorem exec_eq_performOver (i : Instr) (s : State) :
    exec i s = onBlock (performOver Config.num i) s := by
  cases i <;> rfl

@[simp] theorem exactNum_add (x y : ℝ) : exactNum.add x y = x + y := rfl
@[simp] theorem exactNum_sub (x y : ℝ) : exactNum.sub x y = x - y := rfl
@[simp] theorem exactNum_mul (x y : ℝ) : exactNum.mul x y = x * y := rfl
@[simp] theorem exactNum_div (x y : ℝ) : exactNum.div x y = x / y := rfl
@[simp] theorem exactNum_sqrt (x : ℝ) : exactNum.sqrt x = Real.sqrt x := rfl
@[simp] theorem exactNum_sin (x : ℝ) : exactNum.sin x = Real.sin x := rfl
@[simp] theorem exactNum_cos (x : ℝ) : exactNum.cos x = Real.cos x := rfl
@[simp] theorem exactNum_floor (x : ℝ) : exactNum.floor x = (⌊x⌋ : ℝ) := rfl
@[simp] theorem exactNum_atan2 (y x : ℝ) : exactNum.atan2 y x = Complex.arg ⟨x, y⟩ := rfl
@[simp] theorem exactNum_lt (x y : ℝ) : exactNum.lt x y = decide (x < y) := rfl
@[simp] theorem exactNum_lit (n : Int) (d : Nat) : exactNum.lit n d = (n : ℝ) / (d : ℝ) := rfl
@[simp] theorem exactNum_pi : exactNum.pi = Real.pi := rfl
@[simp] theorem exactNum_isNumber (x : ℝ) : exactNum.isNumber x = true := rfl
@[simp] theorem exactNum_unstatedRatio (acc : List ℝ) : exactNum.unstatedRatio acc = exactUnstatedRatio acc := rfl

@[simp] theorem exactNum_zero : exactNum.zero = 0 := by simp [Numerics.zero]
@[simp] theorem exactNum_neg (x : ℝ) : exactNum.neg x = -x := by simp [Numerics.neg]
@[simp] theorem exactNum_twoPi : exactNum.twoPi = 2 * Real.pi := by simp [Numerics.twoPi]
@[simp] theorem exactNum_ofNat (k : Nat) : exactNum.ofNat k = (k : ℝ) := by simp [Numerics.ofNat]
@[simp] theorem exactNum_ofInt (k : Int) : exactNum.ofInt k = (k : ℝ) := by simp [Numerics.ofInt]
@[simp] theorem exactNum_abs (x : ℝ) : exactNum.abs x = |x| := by
  by_cases h : x < 0
  · simp [Numerics.abs, h, abs_of_neg h]
  · simp [Numerics.abs, h, abs_of_nonneg (not_lt.mp h)]

end Sys2Proof.Machine
end

