-- ==== Sys2Proof/Laws/Memory.lean ====
section
/-! SUPPORT. Memory: the lengths of the memory spaces (20_memory.md rule R60): every memory operation
keeps them, and the reset state has them. -/

namespace Sys2Proof.Machine

variable {α : Type} (num : Numerics α)

@[simp] theorem dft_length (n : Nat) (y : List (Cx α)) : (dft num n y).length = n := by simp [dft]
@[simp] theorem idft_length (n : Nat) (y : List (Cx α)) : (idft num n y).length = n := by simp [idft]
@[simp] theorem corr_length (n : Nat) (spec y : List (Cx α)) : (corr num n spec y).length = n := by
  simp [corr]
@[simp] theorem oversample_length (cfg : Cfg) (code : List Bool) :
    (oversample num cfg code).length = cfg.n := by simp [oversample]
@[simp] theorem codeSpectrum_length (cfg : Cfg) (code : List Bool) :
    (codeSpectrum num cfg code).length = cfg.n := by simp [codeSpectrum]

@[simp] theorem goldRun_length (k : Nat) (g1 g2 : Lfsr10) : (goldRun k g1 g2).1.length = k := by
  induction k generalizing g1 g2 with
  | zero => rfl
  | succ k ih => simp [goldRun, ih]

@[simp] theorem goldGen_length (s : Nat) : (goldGen s).1.length = codeLen := by simp [goldGen]

@[simp] theorem mixAll_length (o : Osc α) (xs : List (Cx α)) : (mixAll num o xs).1.length = xs.length := by
  induction xs generalizing o with
  | nil => rfl
  | cons x xs ih => simp [mixAll, ih]

@[simp] theorem sweepAll_length (b : Block α) : (sweepAll num b).length = nSat := by simp [sweepAll]

/-- Re-using trailing samples keeps the length of the period buffer (R224). -/
theorem reuseTail_length (n k : Nat) (buf : List (Cx α)) (hb : buf.length = n) (hk : k ≤ n) :
    (reuseTail n k buf).length = n := by
  simp only [reuseTail, List.length_append, List.length_take, List.length_drop]; omega

/-- Placing a bit keeps the length of the subframe buffer (R310). -/
@[simp] theorem placeBit_length (sf : List NavWord) (k : Nat) (bit : Bool) :
    (placeBit sf k bit).length = sf.length := by simp [placeBit]

/-- `Memory.wf`, in words: the lengths of R60. -/
theorem memory_wf_iff (b : Block α) : Memory.wf b = true ↔
    b.sys.blk.length = b.cfg.n ∧ b.acq.buf.length = b.cfg.captureLen
      ∧ b.acq.bestRatio.length = nSat ∧ b.acq.bestFreq.length = nSat ∧ b.ch.length = nSat
      ∧ (∀ c ∈ b.ch, c.buf.length = b.cfg.n ∧ c.ma.length = faMaLen ∧ c.pllErr.length = pllBlock
        ∧ c.sf.length = sfWords ∧ c.frame.length = frameSf ∧ (∀ f ∈ c.frame, f.length = sfWords)
        ∧ c.frameHave.length = frameSf ∧ c.frameMeta.length = frameSf)
      ∧ (b.sys.mode = .fatal ∨ (b.cg.code.length = nSat ∧ (∀ k ∈ b.cg.code, k.length = codeLen)
        ∧ b.cg.spec.length = nSat ∧ (∀ z ∈ b.cg.spec, z.length = b.cfg.n))) := by
  simp [Memory.wf, and_assoc]

/-- A write into the block buffer keeps the form (R342). -/
theorem assembleBlock_wf (x : Cx α) (b : Block α) (h : Memory.wf b = true) :
    Memory.wf (assembleBlock x b) = true := by
  simpa [Memory.wf, assembleBlock] using h

/-- A write into the capture buffer keeps the form (R192). -/
theorem acqFeed_wf (x : Cx α) (b : Block α) (h : Memory.wf b = true) :
    Memory.wf { b with acq := acqFeed b.cfg x b.acq } = true := by
  have hb : (acqFeed b.cfg x b.acq).buf.length = b.acq.buf.length
      ∧ (acqFeed b.cfg x b.acq).bestRatio = b.acq.bestRatio
      ∧ (acqFeed b.cfg x b.acq).bestFreq = b.acq.bestFreq := by
    simp only [acqFeed, acqComplete, acqCapture, acqTrigger]
    split <;> split <;> split <;> simp
  simpa [Memory.wf, hb.1, hb.2.1, hb.2.2] using h

/-- The slots of a newly created channel have the lengths of R60. -/
theorem channelNew_lengths (cfg : Cfg) : let c := channelNew num cfg
    c.buf.length = cfg.n ∧ c.ma.length = faMaLen ∧ c.pllErr.length = pllBlock
      ∧ c.sf.length = sfWords ∧ c.frame.length = frameSf ∧ (∀ f ∈ c.frame, f.length = sfWords)
      ∧ c.frameHave.length = frameSf ∧ c.frameMeta.length = frameSf := by
  simp [channelNew]

/-- The memory that a reset leaves has the form, whatever the configuration (R43, R420). -/
theorem blockReset_wf (cfg : Cfg) (draws : Nat) : Memory.wf (blockReset num cfg draws) = true := by
  rw [memory_wf_iff]
  unfold blockReset
  split
  · simp [blockWith, codeTables, acqReset, channelReset, channelNew]
  · simp [blockWith, raise, emit, acqReset, channelReset, channelNew]

/-- The memory of the reset state has the form. -/
theorem reset_wf : Memory.wf State.reset.toBlock = true := blockReset_wf Config.num Config.cfg 0

end Sys2Proof.Machine
end

