-- ==== Sys2Proof/Laws/PerInstr.lean ====
section
/-! SUPPORT. PerInstr: a family of statements proved command by command: the word a command is encoded
to carries the operation code that 30_encoding.md rule R92 gives it. -/

namespace Sys2Proof

/-- The operation code of R92. -/
def Instr.opcode : Instr → BitVec 8
  | .nop => 0x00
  | .ncoEval => 0x01
  | .ncoSetf => 0x02
  | .ncoAddf => 0x03
  | .ncoAdvp => 0x04
  | .cgChip _ _ => 0x10
  | .cgSpec _ _ => 0x11
  | .sample => 0x20
  | .chStat _ => 0x30
  | .acqStat => 0x31
  | .sysStat => 0x32

/-- The high byte of an assembled word is its operation code (R90). -/
theorem fieldOpc_assemble (opc a : BitVec 8) (b : BitVec 16) : fieldOpc (assemble opc a b) = opc := by
  unfold fieldOpc assemble
  ext i hi
  simp only [BitVec.getElem_extractLsb', BitVec.getLsbD_append]
  simp [show ¬ 24 + i < 24 by omega, BitVec.getLsbD_eq_getElem hi]

namespace Laws.OpcodeField

/-- The encoded word's field `OPC` is the command's operation code. -/
def Statement (i : Instr) : Prop := fieldOpc (encode i) = i.opcode

theorem nop : Statement .nop := fieldOpc_assemble _ _ _
theorem ncoEval : Statement .ncoEval := fieldOpc_assemble _ _ _
theorem ncoSetf : Statement .ncoSetf := fieldOpc_assemble _ _ _
theorem ncoAddf : Statement .ncoAddf := fieldOpc_assemble _ _ _
theorem ncoAdvp : Statement .ncoAdvp := fieldOpc_assemble _ _ _
theorem cgChip (sat : BitVec 8) (idx : BitVec 16) : Statement (.cgChip sat idx) := fieldOpc_assemble _ _ _
theorem cgSpec (sat : BitVec 8) (bin : BitVec 16) : Statement (.cgSpec sat bin) := fieldOpc_assemble _ _ _
theorem sample : Statement .sample := fieldOpc_assemble _ _ _
theorem chStat (sat : BitVec 8) : Statement (.chStat sat) := fieldOpc_assemble _ _ _
theorem acqStat : Statement .acqStat := fieldOpc_assemble _ _ _
theorem sysStat : Statement .sysStat := fieldOpc_assemble _ _ _

end Laws.OpcodeField

end Sys2Proof
end

