-- ==== Sys2Proof/Tests/Slice0.lean ====
section
/-! SUPPORT. Slice0: tests of single steps and words, their expected values from spec/95_test_vectors.md
and from the tables of spec/30_encoding.md, and a witness for the hypotheses of every obligation. -/

namespace Sys2Proof.Tests

open Sys2Proof Sys2Proof.Machine

/-! ## Decoding: one word of each row, written out from R92 -/

theorem test_decode_nop : decode 0b00000000_00000000_0000000000000000#32 = .ok .nop := by decide
theorem test_decode_ncoEval : decode 0b00000001_00000000_0000000000000000#32 = .ok .ncoEval := by decide
theorem test_decode_ncoSetf : decode 0b00000010_00000000_0000000000000000#32 = .ok .ncoSetf := by decide
theorem test_decode_ncoAddf : decode 0b00000011_00000000_0000000000000000#32 = .ok .ncoAddf := by decide
theorem test_decode_ncoAdvp : decode 0b00000100_00000000_0000000000000000#32 = .ok .ncoAdvp := by decide
theorem test_decode_cgChip : decode 0b00010000_00100000_0000001111111110#32 = .ok (.cgChip 32 1022) := by
  decide
theorem test_decode_cgSpec : decode 0b00010001_00000001_0000011111111101#32 = .ok (.cgSpec 1 2045) := by
  decide
theorem test_decode_sample : decode 0b00100000_00000000_0000000000000000#32 = .ok .sample := by decide
theorem test_decode_chStat : decode 0b00110000_00001001_0000000000000000#32 = .ok (.chStat 9) := by decide
theorem test_decode_acqStat : decode 0b00110001_00000000_0000000000000000#32 = .ok .acqStat := by decide
theorem test_decode_sysStat : decode 0b00110010_00000000_0000000000000000#32 = .ok .sysStat := by decide

/-- The unused codes at the edges of R93's gaps select nothing. -/
theorem test_decode_gaps :
    ([0x05, 0x0F, 0x12, 0x1F, 0x21, 0x2F, 0x33, 0x3F, 0x40, 0xFF].all fun k =>
      decode (BitVec.ofNat 32 (k * 2 ^ 24)) == .error (.noSuchOpcode (BitVec.ofNat 8 k))) = true := by
  decide
/-- Program P2, rows 9, 10 and 12: fields that must be zero. -/
theorem test_decode_mustBeZero :
    decode 0x00000001#32 = .error (.mustBeZero "NOP")
      ∧ decode 0x01010000#32 = .error (.mustBeZero "NCO.EVAL")
      ∧ decode 0x30010001#32 = .error (.mustBeZero "CH.STAT") := by decide
theorem test_encode_cgSpec : encode (.cgSpec 1 2045) = 0x110107FD#32 := by decide
/-- Bits above `nbits` are 0. -/
theorem test_decodeTableWord : decodeTableWord 32 0x30090000 = some (.chStat 9)
    ∧ decodeTableWord 8 0x30090000 = some .nop := by decide

/-! ## Well-formedness: an ill-formed term for each check (program P2, rows 4 to 7 and 11) -/

theorem test_wf_sat_zero : (Instr.cgChip 0 0).wellFormed 2046 = false := by decide
theorem test_wf_sat_high : (Instr.cgChip 33 1022).wellFormed 2046 = false := by decide
theorem test_wf_chip_index : (Instr.cgChip 1 1023).wellFormed 2046 = false := by decide
theorem test_wf_bin_index : (Instr.cgSpec 1 2046).wellFormed 2046 = false := by decide
theorem test_wf_bin_sat : (Instr.cgSpec 33 0).wellFormed 2046 = false := by decide
theorem test_wf_chStat : (Instr.chStat 0).wellFormed 2046 = false ∧ (Instr.chStat 33).wellFormed 2046 = false := by
  decide
theorem test_wf_edges : (Instr.cgChip 32 1022).wellFormed 2046 = true
    ∧ (Instr.cgSpec 1 2045).wellFormed 2046 = true := by decide

/-! ## Numerics for tests: thousandths, so that thresholds and signs can be evaluated -/

/-- A toy `NUM` in thousandths; its trigonometry is that of a square wave and means nothing. -/
def milli : Numerics Int where
  add a b := a + b
  sub a b := a - b
  mul a b := a * b / 1000
  div a b := if b = 0 then 0 else a * 1000 / b
  sqrt a := a
  sin _ := 0
  cos _ := 1000
  floor a := a / 1000 * 1000
  atan2 y x := if x < 0 then 3000 else y
  lt a b := decide (a < b)
  lit n d := n * 1000 / d
  pi := 3142
  isNumber a := decide (a < 1000000)
  unstatedRatio _ := 7

/-- The smallest configuration: `SPC = 1`, one epoch, a trigger every millisecond, one hypothesis, no
latency. -/
def smallCfg : Cfg := ⟨1023000, 1, 1, 1000, 0, some 0⟩

/-- A configuration whose sample rate is no whole multiple of the chip rate. -/
def badCfg : Cfg := ⟨1000000, 1, 1, 1, 0, none⟩

/-- A channel in a given lock state, alive and active, its buffers of samples empty. -/
def channel (st : LockState) : Channel Int :=
  { channelNew milli smallCfg with state := st, active := true, alive := true, buf := [] }

/-- The machine reset with the smallest configuration. -/
def small : State := { toBlock := blockReset Config.num smallCfg 0, port := [] }

/-- The same with both operand registers supplied. -/
def supplied : State := { small with cmd := { small.cmd with opa := some ⟨1⟩, opb := some ⟨2⟩ } }

/-- The machine in mode FATAL, both operands supplied. -/
def fatal : State :=
  { toBlock := { blockReset Config.num badCfg 0 with cmd := supplied.cmd }, port := [] }

/-- The next command on the port of a machine. -/
def issue (w : Word) (s : State) : State := { s with port := [.command ⟨w, none, none⟩] }

/-- A block over the test numerics with its channels and acquisition engine as given. -/
def blockOf (ch : List (Channel Int)) (a : AcqEngine Int) : Block Int :=
  { blockWith milli smallCfg 0 codeTablesNone with ch := ch, acq := a }

/-- The state a command leaves, if it leaves one. -/
def after (o : StateOutcome) : Option State :=
  match o with
  | .next s => some s
  | .fault _ => none
  | .refused _ => none

/-- The block a command leaves, if it leaves one. -/
def blockAfter {α : Type} (o : BlockOutcome α) : Option (Block α) :=
  match o with
  | .next b => some b
  | .fault _ => none
  | .refused _ => none

/-! ## Commands -/

theorem test_nop_fatal : exec .nop fatal = .next fatal := rfl
theorem test_reset_mode : State.reset.sys.mode = .run := rfl
theorem test_fatal_event : fatal.sys.mode = .fatal ∧ fatal.evOut = [.fatalConfig] := by decide
/-- Program P1, row 3: the first `evaluate()` leaves the sample of phase 0 in the result registers. -/
theorem test_ncoEval_before_advance :
    (after (exec .ncoEval small)).map (fun s => s.cmd.res0) = some (Config.num.cos Config.num.zero) := rfl
theorem test_ncoSetf_keeps_phase :
    (after (exec .ncoSetf supplied)).map (fun s => s.ncoH.phase) = some Config.num.zero := rfl
theorem test_ncoSetf_missing : exec .ncoSetf small = .refused (.operandMissing .opa) := rfl
/-- `2π·f/fs` accumulates: the increment of two corrections is their sum (R123), in thousandths. -/
theorem test_ncoAddf_adds :
    (oscAddFrequency milli ⟨1000, 1, 1, 1, 0, none⟩ 3000 ⟨5, 7⟩) = ⟨5, 7 + 18⟩ := by decide
theorem test_ncoAdvp_wraps : (oscAdvancePhase milli (-1000) ⟨0, 9⟩) = ⟨5284, 9⟩ := by decide
theorem test_ncoAdvp_fatal : exec .ncoAdvp fatal = .next fatal := rfl
/-- 95_test_vectors.md section 2.4: chips 0, 2 and 9 of satellite 1, chips 0 and 4 of satellite 32. -/
theorem test_cgChip_codes :
    [(1, 0), (1, 2), (1, 9), (32, 0), (32, 4)].map (fun p => (goldGen p.1).1.getD p.2 false)
      = [true, false, false, true, false] := by decide +kernel
theorem test_cgChip_range : after (exec (.cgChip 1 1023) small) = some (afterIllegalCommand small) := rfl
theorem test_cgSpec_range : after (exec (.cgSpec 1 1023) small) = some (afterIllegalCommand small) := rfl
theorem test_cgSpec_fatal : exec (.cgSpec 1 1023) fatal = .next fatal := rfl
/-- R384: a sample that is not a number is not consumed. -/
theorem test_sample_nan : sampleStep milli 0 1000000 (blockOf [] (acqReset milli smallCfg))
    = raise .nanSample (blockOf [] (acqReset milli smallCfg)) := by rfl

/-- A running block after a sample that was not a number, the given sample supplied. -/
def violated (re im : Int) : Block Int :=
  let b := raise .nanSample (blockOf [] (acqReset milli smallCfg))
  { b with cmd := { b.cmd with opa := some re, opb := some im } }

/-- R384: a number after the violation is refused; what is not a number leaves the block as it was. -/
theorem test_sample_after_nan : doSample milli (violated 1 2) = .refused .streamViolated
    ∧ doSample milli (violated 0 1000000) = .next (violated 0 1000000) := ⟨rfl, rfl⟩
/-- R191: the first sample starts the first capture and is its first sample. -/
theorem test_sample_triggers :
    let b := sampleStep milli 1000 2000 (blockOf [] (acqReset milli smallCfg))
    b.acq.state = .collecting ∧ b.acq.fill = 1 ∧ b.acq.timer = 1 ∧ b.sys.sidx = 1
      ∧ b.acq.buf[0]? = some ⟨1000, 2000⟩ := by decide
/-- Program P2, row 13: a slot without a channel. -/
theorem test_chStat_inactive :
    (after (exec (.chStat 1) small)).map (fun s => s.cmd.resi) = some 0x00000006#32 := rfl
/-- R363's example: a channel just promoted. -/
theorem test_chStat_promoted : chStatWord (channelPromoted milli smallCfg 0) = 0x00000018#32 := by decide
/-- R362's example: collecting, none found. -/
theorem test_acqStat_collecting :
    acqStatWord (blockOf [] { acqReset milli smallCfg with state := .collecting }) = 0x00000001#32 := by decide
/-- Program P2, row 15. -/
theorem test_sysStat_errCmd :
    (after (exec .sysStat (afterIllegalCommand small))).map (fun s => s.cmd.resi) = some 0x00000002#32 := rfl
/-- R97: the word in FATAL. -/
theorem test_sysStat_fatal :
    (after (exec .sysStat fatal)).map (fun s => s.cmd.resi) = some 0x00000001#32 := rfl

/-- A command placed for the next step is the first the machine runs after reset. -/
theorem test_first_command :
    (after (step (State.reset.withFetchWord 32 0x32000000))).map (fun s => (s.cmd.resi, s.port.length))
      = some (0x00000000#32, 0) := rfl
theorem test_first_command_illegal :
    (after (step (State.reset.withFetchWord 32 0x05000000))).map (fun s => (s.cmd.resi, s.sys.errCmd))
      = some (0xFFFFFFFF#32, true) := rfl

/-! ## Inside the block -/

/-- 95_test_vectors.md section 3.3: signed offsets and their validity. -/
theorem test_signedOffset :
    [(2046, 0), (2046, 700), (2046, 1023), (2046, 1024), (2046, 2045), (1023, 511), (1023, 512)].map
        (fun p => signedOffset p.1 p.2) = [0, 700, 1023, -1022, -1, 511, -511]
      ∧ [(2, 0), (2, 1), (8, 2), (8, -2), (8, 3)].map (fun p => offsetValid p.1 p.2)
        = [true, false, true, true, false] := by decide
/-- Section 3.3: the least index wins a tie. -/
theorem test_argmax_tie : milli.argmax [3, 7, 7, 1] = 1 := by decide
/-- Section 7.1. -/
theorem test_accRatio : accRatio milli 4 [6000, 2000, 2000, 2000] = 2000 ∧ accRatio milli 4 [0, 0, 0, 0] = 0 := by
  decide
/-- R198 states no ratio for a mean below 0: it is the numerics' free value. -/
theorem test_accRatio_unstated :
    accRatio milli 4 [-6000, 2000, 2000, -2000] = milli.unstatedRatio [-6000, 2000, 2000, -2000] := by decide
/-- Vector F1, period 11: ten valid offsets leave `OFFSET_ACQUIRE`; the event header is `0x51C10000`. -/
theorem test_offset_advance :
    ((trkStep milli smallCfg 7 true ⟨0, 0⟩ { channel .offsetAcquire with offValid := 9 }).evs.map eventHeader)
      = [0x51C10000#32] := by decide
/-- Vector F2, period 39, and F3: the losing period. -/
theorem test_offset_lost :
    ((trkStep milli smallCfg 7 false ⟨0, 0⟩ { channel .offsetAcquire with offInvalid := 9 }).evs.map eventHeader)
        = [0x51C60001#32]
      ∧ (trkStep milli smallCfg 7 false ⟨0, 0⟩
          { channel .frequencyAcquire with offInvalid := 9, codeOff := -2 }).ch.codeOff = -2 := by decide
/-- R224's example, with `N = 8`: `o = −3` copies the last three samples to the head. -/
theorem test_reuseTail :
    reuseTail 8 3 ((List.range 8).map fun i => (⟨(i : Int), 0⟩ : Cx Int))
      = [5, 6, 7, 3, 4, 5, 6, 7].map fun i => ⟨i, 0⟩ := by decide
/-- Vector F6: five errors of 0.6 make the loop update; the buffer is emptied. -/
theorem test_pll_update :
    let c := pllPush milli smallCfg 600 { channel .pllAcquire with pllErr := [600, 600, 600, 600, 0], pllN := 4 }
    c.pllMean = 600 ∧ c.pllVar = 0 ∧ c.pllN = 0 := by decide
/-- Vector F9: the first change of sign starts a window; then a total of −20 is a bit 0. -/
theorem test_bitSync_then_bit :
    ((bitSyncStage milli 7 ⟨-1, 0⟩ { channel .bitAcquire with bsHavePrev := true, bsPrev := .pos }).evs.map
        eventHeader) = [0x51DC0000#32]
      ∧ ((bitStage milli 7 ⟨-1, 0⟩ { channel .preambleAcquire with bitSum := -19, bitCnt := 19 }).evs.map
        eventHeader) = [0x61C00000#32] := by decide
/-- Vector F9: ten signs each way lose bit synchronisation. -/
theorem test_bitSync_lost :
    ((bitStage milli 7 ⟨-1, 0⟩ { channel .preambleAcquire with bitSum := 1, bitCnt := 19 }).evs.map eventHeader)
      = [0x71C00000#32, 0x51E30004#32] := by decide
/-- Section 6.1: two rows of the encoding table. -/
theorem test_wordEncode :
    wordEncode 0x8B0000#24 false false = 0x22C00012#30 ∧ wordEncode 0x8B0000#24 true true = 0x1D3FFFED#30
      ∧ wordEncode 0x123456#24 true false = 0x048D15A8#30 := by decide
/-- Section 6.3. -/
theorem test_tlmOk : tlmOk 0x22C00012#30 = true ∧ tlmOk 0x22C00013#30 = false ∧ tlmOk 0x22D55555#30 = false
    ∧ tlmOk 0x22C0003B#30 = false := by decide

/-- Subframe `S1` of section 6.4. -/
def subframe1 : List NavWord :=
  [0x22D23434, 0x00192918, 0x2531982F, 0x09C8D3DE, 0x0C76DB05, 0x05DD22FB, 0x023953EF, 0x1D7D4DC0,
   0x3B226D11, 0x290B79AC]

/-- Chain `X` of section 6.4: ten valid words, the last two bits not zero. -/
def chainX : List NavWord :=
  [0x22C00012, 0x0000A11B, 0x376693BC, 0x246DD612, 0x363C5ABF, 0x0CA7B065, 0x0F1E510A, 0x0409F134,
   0x10530D27, 0x3874052F]

/-- A channel with an assembled subframe. -/
def assembled (ws : List NavWord) : Channel Int := { channel .subframeAcquire with sf := ws, sfBits := 300 }

/-- Vector N1, bit 307: `S1` is stored at id 1, its time of week 201. -/
theorem test_subframe_accepted :
    let t := validateSubframe milli 9 (assembled subframe1)
    t.evs.map eventHeader = [0x82490000#32, 0x526C0005#32]
      ∧ t.ch.frameHave = [true, false, false, false, false]
      ∧ t.ch.frameMeta[0]? = some ⟨0x1234, false, 201, false, true⟩ := by decide
/-- Vectors N4 and N6: a bad word 4, and a chain that does not end in zeros. -/
theorem test_subframe_rejected :
    (validateSubframe milli 9 (assembled (subframe1.set 3 0x09C8D3DF))).evs.map eventHeader
        = [0xA2440000#32, 0x526E0003#32]
      ∧ (validateSubframe milli 9 (assembled chainX)).evs.map eventHeader
        = [0xA24B0000#32, 0x526E0003#32] := by decide

/-! ## Witnesses: the hypotheses of each obligation are met -/

theorem witness_DecodeAndEncodeAgree : decode 0x110107FD#32 = .ok (.cgSpec 1 2045) := by decide

theorem witness_StepRunsDecodedCommand :
    ((issue 0x01000000#32 small).port = .command ⟨0x01000000#32, none, none⟩ :: []
        ∧ decode 0x01000000#32 = .ok .ncoEval ∧ (issue 0x01000000#32 small).sys.mode = .run)
      ∧ (issue 0x01000000#32 fatal).sys.mode = .fatal := ⟨⟨rfl, rfl, rfl⟩, rfl⟩

/-- `SPC` at its bound 64 and above it, no epoch, a rate that is no multiple of the chip rate, a rate of 0. -/
theorem witness_StepWaitsOrResets :
    let ofBlock (cfg : Cfg) : Prop :=
      0 < cfg.fsHz ∧ 1 ≤ cfg.nEpochs ∧ 0 < cfg.secNum ∧ 0 < cfg.secDen ∧ 50 ∣ cfg.fSearchMax
        ∧ (cfg.fsHz % 1023000 = 0 → cfg.fsHz / 1023000 ≤ 64)
    (small.port = [] ∧ ({ small with port := [.reset smallCfg] } : State).port = .reset smallCfg :: [])
      ∧ (ofBlock smallCfg ∧ ofBlock badCfg ∧ ofBlock { smallCfg with fsHz := 64 * 1023000 })
      ∧ ¬ofBlock { smallCfg with fsHz := 65 * 1023000 } ∧ ¬ofBlock { smallCfg with nEpochs := 0 }
      ∧ ¬ofBlock { smallCfg with fSearchMax := 49 } ∧ ¬ofBlock { smallCfg with fsHz := 0 } := by decide

theorem witness_ResetLeavesRuleValues :
    smallCfg.fsHz % 1023000 = 0 ∧ badCfg.fsHz % 1023000 ≠ 0 ∧ (1 ≤ 1 ∧ 1 ≤ 32) ∧ 1 ≤ 32 ∧ 32 ≤ 32 := by decide

theorem witness_IllegalCommandOnlyFlags_word :
    (issue 0x05000000#32 small).sys.mode = .run
      ∧ (issue 0x05000000#32 small).port = .command ⟨0x05000000#32, none, none⟩ :: []
      ∧ (∀ r ∈ opcodeRows, (0x05000000#32) &&& r.mask ≠ r.value)
      ∧ (∀ r ∈ opcodeRows, (0x00000001#32) &&& r.mask ≠ r.value) := ⟨rfl, rfl, by decide, by decide⟩

theorem witness_IllegalCommandOnlyFlags_field :
    small.sys.mode = .run ∧ small.cfg.n = 1023 ∧ (Instr.cgChip 1 1023).wellFormed 1023 = false
      ∧ (Instr.cgSpec 1 1023).wellFormed 1023 = false ∧ (Instr.chStat 33).wellFormed 1023 = false := by decide

theorem witness_FatalModeIsInert : (issue 0x32000000#32 fatal).sys.mode = .fatal
    ∧ (issue 0x32000000#32 fatal).port = .command ⟨0x32000000#32, none, none⟩ :: [] := ⟨rfl, rfl⟩

theorem witness_MissingOperandRefused : small.sys.mode = .run ∧ small.cmd.opa = none
    ∧ ({ small with cmd := { small.cmd with opa := some ⟨1⟩ } } : State).cmd.opb = none := ⟨rfl, rfl, rfl⟩

theorem witness_CommandsKeepModeAndTables :
    (issue 0 small).port = .command ⟨0, none, none⟩ :: [] ∧ step (issue 0 small) = .next small := ⟨rfl, rfl⟩

theorem witness_FlagsAndEventsAccumulate :
    let s := issue 0 { small with sys := { small.sys with errCmd := true, errNan := true } }
    s.port = .command ⟨0, none, none⟩ :: [] ∧ step s = .next { s with port := [] }
      ∧ s.sys.errCmd = true ∧ s.sys.errNan = true := ⟨rfl, rfl, rfl, rfl⟩

theorem witness_HostCommandsLeaveReceiverAlone : Instr.nop ≠ .sample ∧ exec .nop small = .next small :=
  ⟨by decide, rfl⟩

theorem witness_NcoEvalReturnsThenAdvances : small.sys.mode = .run := rfl

theorem witness_NcoSettingCommands : supplied.sys.mode = .run ∧ supplied.cmd.opa = some ⟨1⟩ := ⟨rfl, rfl⟩

theorem witness_EventRecordsOnThePort : (0 ≤ 32 ∧ 32 ≤ 32) ∧ (0 ≤ 11 ∧ 11 ≤ 11)
    ∧ (∀ i p r f, (Event.satAdd 32 : Event Int) ≠ .acqResult i p r f)
    ∧ (∀ i st id ws m, (Event.satAdd 32 : Event Int) ≠ .subframe i st id ws m) := by simp

theorem witness_CgChipReadsOneChip : small.sys.mode = .run
    ∧ (1 ≤ (32 : BitVec 8).toNat ∧ (32 : BitVec 8).toNat ≤ 32 ∧ (1022 : BitVec 16).toNat ≤ 1022)
    ∧ ¬(1 ≤ (1 : BitVec 8).toNat ∧ (1 : BitVec 8).toNat ≤ 32 ∧ (1023 : BitVec 16).toNat ≤ 1022) := by decide

theorem witness_CgSpecReadsOneBin : small.sys.mode = .run
    ∧ (1 ≤ (1 : BitVec 8).toNat ∧ (1 : BitVec 8).toNat ≤ 32 ∧ (1022 : BitVec 16).toNat < small.cfg.n)
    ∧ ¬(1 ≤ (33 : BitVec 8).toNat ∧ (33 : BitVec 8).toNat ≤ 32 ∧ (0 : BitVec 16).toNat < small.cfg.n) := by
  decide

theorem witness_SampleFollowsRule : supplied.cmd.opa = some ⟨1⟩ ∧ supplied.cmd.opb = some ⟨2⟩
    ∧ supplied.sys.mode = .run ∧ supplied.sys.errNan = false
    ∧ (let s := { supplied with sys := { supplied.sys with errNan := true } }
       s.cmd.opa = some ⟨1⟩ ∧ s.cmd.opb = some ⟨2⟩ ∧ s.sys.mode = .run ∧ s.sys.errNan = true)
    ∧ fatal.cmd.opa = some ⟨1⟩ ∧ fatal.cmd.opb = some ⟨2⟩ ∧ fatal.sys.mode = .fatal :=
  ⟨rfl, rfl, rfl, rfl, ⟨rfl, rfl, rfl, rfl⟩, rfl, rfl, rfl⟩

theorem witness_SysStatReportsSystem : fatal.sys.mode = .fatal ∧ small.sys.mode = .run ∧ small.ch.length = 32 := by
  decide

theorem witness_AcqStatReportsEngine : small.sys.mode = .run ∧ small.acq.found.length ≤ 32
    ∧ ({ small with acq := { small.acq with found := List.replicate 32 ⟨1, ⟨0⟩, ⟨0⟩⟩ } } : State).acq.found.length
      ≤ 32 := by decide

theorem witness_ChStatReportsChannel_inactive : small.sys.mode = .run
    ∧ small.ch[(32 : BitVec 8).toNat - 1]? = some (channelReset Config.num smallCfg)
    ∧ (channelReset Config.num smallCfg).active = false
    ∧ ¬(1 ≤ (0 : BitVec 8).toNat ∧ (0 : BitVec 8).toNat ≤ 32) := ⟨rfl, rfl, rfl, by decide⟩

theorem witness_ChStatReportsChannel_active :
    ({ small with ch := [channelPromoted Config.num smallCfg ⟨0⟩] } : State).ch[(1 : BitVec 8).toNat - 1]?
        = some (channelPromoted Config.num smallCfg ⟨0⟩)
      ∧ (channelPromoted Config.num smallCfg ⟨0⟩).active = true := ⟨rfl, rfl⟩

theorem smallCfg_legal : cfgLegal smallCfg := ⟨by decide, by decide⟩

theorem witness_StepKeepsMemoryForm :
    Memory.wf (issue 0 small).toBlock = true ∧ step (issue 0 small) = .next small
      ∧ Memory.wf (blockReset Config.num badCfg 0) = true :=
  ⟨blockReset_wf Config.num smallCfg 0, rfl, blockReset_wf Config.num badCfg 0⟩

theorem witness_StepKeepsSampleClock :
    whileRunning SampleClock (issue 0 small).toBlock ∧ step (issue 0 small) = .next small :=
  ⟨fun _ => ⟨smallCfg_legal, by decide, by decide, by decide, by decide⟩, rfl⟩

theorem witness_StepKeepsAcquisitionBounds :
    whileRunning (fun b => AcqBounds b.cfg b.acq) (issue 0 small).toBlock
      ∧ step (issue 0 small) = .next small :=
  ⟨fun _ => ⟨smallCfg_legal, by decide, by decide, by decide, by decide, by decide⟩, rfl⟩

/-- The machine with one promoted channel. -/
def tracking : State := { small with ch := [channelPromoted Config.num smallCfg ⟨0⟩] }

theorem witness_StepKeepsChannelsBounded :
    whileRunning ChannelsBounded (issue 0 tracking).toBlock ∧ step (issue 0 tracking) = .next tracking := by
  refine ⟨fun _ => ⟨smallCfg_legal, ?_⟩, rfl⟩
  intro c hc
  obtain rfl : c = channelPromoted Config.num smallCfg ⟨0⟩ := List.mem_singleton.mp hc
  exact ⟨rfl, fun _ => by constructor <;> decide⟩

/-- A block over the exact reals with every oscillator at rest. -/
noncomputable def restingBlock : Block ℝ :=
  { blockReset exactNum smallCfg 0 with ncoH := ⟨0, 0⟩, acq := { acqReset exactNum smallCfg with nco := ⟨0, 0⟩ }, ch := [] }

theorem witness_ExactPhasesStayWrapped :
    phasesWrapped restingBlock ∧ performOver exactNum .nop restingBlock = .next restingBlock := by
  have h : phaseWrapped ⟨0, 0⟩ := ⟨le_refl 0, by positivity⟩
  exact ⟨⟨h, h, fun c hc => absurd hc List.not_mem_nil⟩, rfl⟩

/-- `π`, `−π/2` and `π/2` fall under the three cases of `fold`, each at its boundary. -/
theorem witness_ExactAngleFunctions :
    (-Real.pi < Real.pi ∧ Real.pi ≤ Real.pi ∧ Real.pi / 2 < Real.pi)
      ∧ (-Real.pi < -(Real.pi / 2) ∧ -(Real.pi / 2) ≤ Real.pi ∧ -(Real.pi / 2) ≤ -(Real.pi / 2))
      ∧ (-Real.pi < Real.pi / 2 ∧ -(Real.pi / 2) < Real.pi / 2 ∧ Real.pi / 2 ≤ Real.pi / 2)
      ∧ ((0 : ℝ) ≤ 0 ∧ (-1 : ℝ) < 0) := by
  have := Real.pi_pos
  refine ⟨⟨?_, ?_, ?_⟩, ⟨?_, ?_, ?_⟩, ⟨?_, ?_, ?_⟩, ?_, ?_⟩ <;> linarith

theorem witness_ArgmaxIsLeastMaximum : ([1, 2, 2] : List ℝ) ≠ [] ∧ 2 < ([1, 2, 2] : List ℝ).length := by simp

theorem witness_ExactOscillatorLaws : phaseWrapped ⟨0, 1⟩ := ⟨le_refl 0, by positivity⟩

theorem witness_TransformsAreInverse : 0 < 1 ∧ ([⟨1, 2⟩] : List (Cx ℝ)).length = 1 := by decide

theorem witness_CorrelationClosedForm : 0 < smallCfg.n
    ∧ (List.replicate smallCfg.n (⟨1, 0⟩ : Cx ℝ)).length = smallCfg.n ∧ 1022 < smallCfg.n
    ∧ (1022 < 1023 ∧ 0 < smallCfg.spc ∧ (List.replicate 1023 true)[1022]? = some true) := by
  exact ⟨by decide, by simp, by decide, by decide, by decide, List.getElem?_replicate_of_lt (by decide)⟩

theorem witness_SignedOffsetAndValidity : (1023 < 2046 ∧ 2 * 1023 ≤ 2046) ∧ (1024 < 2046 ∧ 2046 < 2 * 1024) := by
  decide

theorem witness_RegistersStepWithPeriod1023 : (1 ≤ 1 ∧ 1 ≤ 32) ∧ (1 ≤ 32 ∧ 32 ≤ 32) ∧ (0 < 1 ∧ 1 < 1023)
    ∧ (0 < 1022 ∧ 1022 < 1023) := by decide

/-- Idle with the timer expired and one short of it, collecting with two samples to go and with one,
searching. -/
theorem witness_AcquisitionFeedByState :
    let a := acqReset milli smallCfg
    1 < smallCfg.nEpochs * smallCfg.n ∧ (a.state = .idle ∧ smallCfg.trigSamples ≤ a.timer)
      ∧ (let d := { a with timer := 1022 }; d.state = .idle ∧ d.timer < smallCfg.trigSamples)
      ∧ (let d := { a with state := .collecting, fill := 1021 }
         d.state = .collecting ∧ d.fill + 1 ≠ smallCfg.nEpochs * smallCfg.n)
      ∧ (let d := { a with state := .collecting, fill := 1022 }
         d.state = .collecting ∧ d.fill + 1 = smallCfg.nEpochs * smallCfg.n)
      ∧ ({ a with state := .searching } : AcqEngine Int).state = .searching := by decide

theorem witness_ExactDetectionRatio :
    ([6, 2, 2, 2] : List ℝ) ≠ [] ∧ (∀ x ∈ ([6, 2, 2, 2] : List ℝ), 0 ≤ x)
      ∧ 0 < 1 / (([6, 2, 2, 2] : List ℝ).length : ℝ) * ([6, 2, 2, 2] : List ℝ).sum
      ∧ (∀ x ∈ ([0] : List ℝ), 0 ≤ x)
      ∧ 1 / (([0] : List ℝ).length : ℝ) * ([0] : List ℝ).sum = 0 := by
  refine ⟨by simp, ?_, by norm_num, ?_, by norm_num⟩ <;> simp

theorem witness_SweepCompletesByLatency :
    let b := blockOf [] { acqReset milli smallCfg with state := .searching }
    b.acq.state = .searching ∧ b.cfg.sweepLatency = some 0
      ∧ ({ b with cfg := badCfg } : Block Int).cfg.sweepLatency = none := by decide

/-- Satellites 1 and 32 reported, slot 1 active, slot 32 not. -/
theorem witness_PromotionOnlyOfInactive :
    let b := blockOf (channelPromoted milli smallCfg 0 :: List.replicate 31 (channelReset milli smallCfg))
      { acqReset milli smallCfg with found := [⟨1, 3000, 0⟩, ⟨32, 4000, 50000⟩] }
    b.ch.length = 32 ∧ (∀ x ∈ b.acq.found, 1 ≤ x.sat ∧ x.sat ≤ 32)
      ∧ (b.acq.found.Pairwise fun x y => x.sat < y.sat) ∧ (channelAt milli b 1).active = true
      ∧ (channelAt milli b 32).active = false := by decide

theorem witness_ChannelFeedFollowsRule :
    let c := channel .offsetAcquire
    (channelReset milli smallCfg).alive = false ∧ (c.alive = true ∧ c.skip = 0 ∧ c.fill + 1 ≠ smallCfg.n)
      ∧ 0 < ({ c with skip := 1 } : Channel Int).skip
      ∧ ({ c with fill := 1022 } : Channel Int).fill + 1 = smallCfg.n := by decide

theorem witness_OnlyLossStopsAChannel :
    (channel .bitAcquire).alive = true ∧ (channel .bitAcquire).state ≠ .signalLost
      ∧ (channelReset milli smallCfg).alive = false := by decide

/-- The offsets `N/2` rounded down, 0, and the most negative one, for `N = 1023`. -/
theorem witness_NewPeriodAfterOffset :
    (channelNew milli smallCfg).buf.length = smallCfg.n
      ∧ (∀ o ∈ ([511, 0, -511] : List Int), -(smallCfg.n : Int) < 2 * o ∧ 2 * o ≤ smallCfg.n) := by
  exact ⟨by simp [channelNew], by decide⟩

theorem witness_OffsetsCounted :
    let c := channel .offsetAcquire
    let d := channel .subframeAcquire
    (c.state = .offsetAcquire ∧ c.offValid + 1 ≠ 10 ∧ c.offInvalid + 1 ≠ 10)
      ∧ ({ c with offValid := 9 } : Channel Int).offValid + 1 = 10
      ∧ ({ c with offInvalid := 9 } : Channel Int).offInvalid + 1 = 10
      ∧ (d.state ≠ .offsetAcquire ∧ d.state ≠ .signalLost ∧ d.offInvalid + 1 ≠ 10)
      ∧ ({ d with offInvalid := 9 } : Channel Int).offInvalid + 1 = 10 := by decide

/-- A first angle; a delta of more than π/2; a small one before the twentieth; the twentieth with the
average at 20 Hz and at 0. -/
theorem witness_FrequencyStageAndAverage :
    let c := channel .frequencyAcquire
    let delta (p : Cx Int) : Int := milli.abs (milli.wrappi (milli.sub (milli.arg p) 0))
    let average (sum : Int) : Int :=
      milli.abs (maAverage milli (maPush (frequencyEstimate milli sum 20) { c with ma := [0, 0, 0, 0, 0] }))
    (c.state = .frequencyAcquire ∧ c.faHavePrev = false)
      ∧ ({ c with faHavePrev := true } : Channel Int).faHavePrev = true ∧ c.faPrev = 0
      ∧ milli.lt (delta ⟨-1, 0⟩) (milli.div milli.pi (milli.lit 2 1)) = false
      ∧ milli.lt (delta ⟨1, 0⟩) (milli.div milli.pi (milli.lit 2 1)) = true
      ∧ c.faN + 1 ≠ 20 ∧ ({ c with faN := 19 } : Channel Int).faN + 1 = 20
      ∧ milli.lt (average 2400) (milli.lit 2 100) = false ∧ milli.lt (average 0) (milli.lit 2 100) = true := by
  decide

theorem witness_FrequencyStageAndAverage_ring :
    (channelNew exactNum smallCfg).ma.length = 5 ∧ (channelNew exactNum smallCfg).maN = 0
      ∧ (channelNew exactNum smallCfg).maPos = 0 ∧ ([1, 2, 3, 4, 5, 6] : List ℝ) ≠ [] :=
  ⟨rfl, rfl, rfl, by simp⟩

theorem witness_ExactCostasError : (⟨3, 1⟩ : Cx ℝ).re ≠ 0 ∨ (⟨3, 1⟩ : Cx ℝ).im ≠ 0 := by norm_num

theorem witness_ExactLoopUpdate :
    (channelNew exactNum smallCfg).pllErr.length = 5 ∧ (channelNew exactNum smallCfg).pllN + 1 ≠ 5
      ∧ ({ channelNew exactNum smallCfg with pllN := 4 } : Channel ℝ).pllN + 1 = 5 := ⟨rfl, by decide, rfl⟩

/-- A peak on the real axis passes the phase check, one on the imaginary axis does not; counts one short
of their ends and not. -/
theorem witness_ValidPeriodByState :
    let c := channel .pllAcquire
    (c.alive = true ∧ c.state = .pllAcquire ∧ c.iqValid + 1 ≠ 200)
      ∧ ({ c with iqValid := 199 } : Channel Int).iqValid + 1 = 200
      ∧ (iqOk milli ⟨1, 0⟩ = true ∧ iqOk milli ⟨1, 1000⟩ = false)
      ∧ (∀ st ∈ [LockState.bitAcquire, .preambleAcquire, .subframeAcquire],
          let d := channel st
          d.alive = true ∧ d.state = st ∧ d.iqInvalid + 1 ≠ 10
            ∧ ({ d with iqInvalid := 9 } : Channel Int).iqInvalid + 1 = 10) := by decide

/-- A first sign, the same sign and the other; nineteen periods of a window done, the twentieth bringing
the total to 0, or to −20. -/
theorem witness_BitWindowDecides :
    let c := channel .preambleAcquire
    let a := { channel .bitAcquire with bsHavePrev := true }
    ((channel .bitAcquire).bsHavePrev = false ∧ a.bsHavePrev = true ∧ a.state = .bitAcquire
        ∧ milli.sgn 1 = a.bsPrev ∧ milli.sgn (-1) ≠ a.bsPrev)
      ∧ (c.bitCnt + 1 ≠ 20)
      ∧ (let d := { c with bitCnt := 19, bitSum := 1 }
         d.bitCnt + 1 = 20 ∧ d.bitSum + (milli.sgn (-1)).toInt = 0)
      ∧ (let d := { c with bitCnt := 19, bitSum := -19 }
         d.bitCnt + 1 = 20 ∧ d.bitSum + (milli.sgn (-1)).toInt ≠ 0) := by decide

theorem witness_SingleBitFlipInvalidates : wordValidate 0x22C00012#30 false false = true ∧ 0 < 30 ∧ 29 < 30 := by
  decide

/-- The last bit of the preamble word, of its complement, of neither, and a register not yet full. -/
theorem witness_PreambleSearchByBit :
    let c : Channel Int := { channel .preambleAcquire with wbits := 29 }
    let w (r : NavWord) (bit : Bool) : NavWord := (r <<< 1) ||| (BitVec.ofBool bit).setWidth 30
    c.state = .preambleAcquire ∧ min (c.wbits + 1) 30 = 30 ∧ min (0 + 1) 30 ≠ 30
      ∧ tlmOk (w (0x22C00012#30 >>> 1) false) = true
      ∧ (tlmOk (w (0x1D3FFFED#30 >>> 1) true) = false ∧ tlmOk (~~~(w (0x1D3FFFED#30 >>> 1) true)) = true)
      ∧ (tlmOk (w 0#30 true) = false ∧ tlmOk (~~~(w 0#30 true)) = false) := by decide

theorem witness_SubframeAssembledInOrder :
    ((channel .subframeAcquire).state = .subframeAcquire
        ∧ ({ channel .subframeAcquire with sfBits := 298 } : Channel Int).sfBits + 1 ≠ 300
        ∧ ({ channel .subframeAcquire with sfBits := 299 } : Channel Int).sfBits + 1 = 300)
      ∧ (subframe1.set 5 0).length = 10 ∧ subframe1.length = 10
      ∧ (subframe1.set 5 0)[0]? = subframe1[0]? := by decide

/-- All words valid and zeros at the end; all valid and not; the first word bad; the last word bad. -/
theorem witness_ChainedValidationDecides :
    let word (ws : List NavWord) (i : Nat) : NavWord := ws.getD (i - 1) 0
    let ok (ws : List NavWord) (i : Nat) : Bool :=
      wordValidate (word ws i) (if i = 1 then false else (word ws (i - 1)).getLsbD 1)
        (if i = 1 then false else (word ws (i - 1)).getLsbD 0)
    ((∀ j, j < 10 → ok subframe1 (j + 1) = true) ∧ (word subframe1 10).getLsbD 1 = false
        ∧ (word subframe1 10).getLsbD 0 = false)
      ∧ ((∀ j, j < 10 → ok chainX (j + 1) = true) ∧ (word chainX 10).getLsbD 1 = true)
      ∧ ok (subframe1.set 0 0x22D23435) 1 = false
      ∧ (ok (subframe1.set 9 0x290B79AD) 10 = false ∧ ∀ j, j < 9 → ok (subframe1.set 9 0x290B79AD) (j + 1) = true)
      ∧ (assembled subframe1).sf.length = 10 := by decide

/-- Ids 0, 6, 1 and 5: the HOW words of `S0`, `S6`, `S1` and `S5`, section 6.4. -/
theorem witness_AcceptedSubframeKept :
    ([0x00190890#30, 0x0019CEE8#30, 0x00192918#30, 0x0019AD78#30].map fun h =>
        (subframeId (assembled (subframe1.set 1 h))).toNat) = [0, 6, 1, 5]
      ∧ (assembled subframe1).state = .subframeAcquire := by decide

/-- Numerics of one value, in which nothing is below anything, so that every satellite is found. -/
def oneValue : Numerics Unit where
  add _ _ := ()
  sub _ _ := ()
  mul _ _ := ()
  div _ _ := ()
  sqrt _ := ()
  sin _ := ()
  cos _ := ()
  floor _ := ()
  atan2 _ _ := ()
  lt _ _ := false
  lit _ _ := ()
  pi := ()
  isNumber _ := true
  unstatedRatio _ := ()

/-- An empty block delivered to an active, alive slot 1 and 31 inactive ones, a sweep in flight. -/
def boundary (latency : Nat) : Block Unit :=
  let b := blockWith oneValue { smallCfg with sweepLatency := some latency } 0 codeTablesNone
  { b with
    sys := { b.sys with blk := [] }
    ch := channelPromoted oneValue smallCfg () :: List.replicate 31 (channelReset oneValue smallCfg)
    acq := { b.acq with state := .searching } }

theorem boundary_bounds (latency : Nat) :
    (boundary latency).ch.length = 32 ∧ AcqBounds (boundary latency).cfg (boundary latency).acq :=
  ⟨rfl, Nat.zero_le _, nofun, nofun, nofun, List.Pairwise.nil⟩

/-- Latency 0: the sweep is complete and finds satellite 1, whose slot is active and alive, and satellite
32, whose slot is not. Latency 1: it is not complete. -/
theorem witness_BlockBoundaryFollowsRule :
    let slots (b : Block Unit) := (forSlots (deliver oneValue b) 1 b.ch).1
    let found := (blockDone oneValue (boundary 0)).acq.found.map fun x => x.sat
    ((boundary 0).acq.state = .searching ∧ sweepComplete (boundary 0) = true ∧ sweepComplete (boundary 1) = false)
      ∧ ((slots (boundary 0))[0]?.map fun c => (c.active, c.alive)) = some (true, true)
      ∧ ((slots (boundary 0))[31]?.map fun c => (c.active, c.alive)) = some (false, false)
      ∧ found[0]? = some 1 ∧ found[31]? = some 32 := by decide +kernel

end Sys2Proof.Tests
end

/-! PROOFS. Scope: the statements of 00_scope.md: the angle functions and the search over exact reals
(R7, R8), wrapped phases (R120), the sweep's report (R196, R199), and the steps of the port (R5). -/

namespace Sys2Proof.Machine

/-! ### Wrapped angles over exact reals (R7) -/

/-- R7's formula of `wrap2pi`. -/
theorem exactNum_wrap2pi (x : ℝ) :
    exactNum.wrap2pi x = x - 2 * Real.pi * ⌊x / (2 * Real.pi)⌋ := by
  simp [Numerics.wrap2pi]

/-- `wrap2pi` is `2π` times a fractional part, which is why it lies in `[0, 2π)`. -/
theorem wrap2pi_eq_fract (x : ℝ) :
    exactNum.wrap2pi x = 2 * Real.pi * Int.fract (x / (2 * Real.pi)) := by
  rw [exactNum_wrap2pi, Int.fract, mul_sub, mul_div_cancel₀ x Real.two_pi_pos.ne']

theorem wrap2pi_nonneg (x : ℝ) : 0 ≤ exactNum.wrap2pi x := by
  rw [wrap2pi_eq_fract]
  exact mul_nonneg Real.two_pi_pos.le (Int.fract_nonneg _)

theorem wrap2pi_lt_twoPi (x : ℝ) : exactNum.wrap2pi x < 2 * Real.pi := by
  rw [wrap2pi_eq_fract]
  exact mul_lt_of_lt_one_right Real.two_pi_pos (Int.fract_lt_one _)

/-- R7's formula of `wrappi`. -/
theorem exactNum_wrappi (x : ℝ) :
    exactNum.wrappi x = exactNum.wrap2pi (x + Real.pi) - Real.pi := by
  simp [Numerics.wrappi]

/-! ### Folded angles, arguments and signs over exact reals (R7) -/

@[simp] theorem exactNum_halfPi : exactNum.halfPi = Real.pi / 2 := by simp [Numerics.halfPi]

/-- `≤`, which the model builds from `<`, is that of the reals. -/
@[simp] theorem exactNum_le (x y : ℝ) : exactNum.le x y = decide (x ≤ y) := by
  rw [Bool.eq_iff_iff]
  simp [Numerics.le]

/-- The branches of `fold`, over the reals. -/
theorem exactNum_fold (x : ℝ) :
    exactNum.fold x =
      if Real.pi / 2 < x then x - Real.pi else if x ≤ -(Real.pi / 2) then x + Real.pi else x := by
  simp [Numerics.fold]

theorem fold_of_gt {x : ℝ} (h : Real.pi / 2 < x) : exactNum.fold x = x - Real.pi := by
  rw [exactNum_fold, if_pos h]

theorem fold_of_le {x : ℝ} (h : x ≤ -(Real.pi / 2)) : exactNum.fold x = x + Real.pi := by
  have hPi := Real.pi_pos
  rw [exactNum_fold, if_neg (by linarith), if_pos h]

theorem fold_of_between {x : ℝ} (hLow : -(Real.pi / 2) < x) (hHigh : x ≤ Real.pi / 2) :
    exactNum.fold x = x := by
  rw [exactNum_fold, if_neg hHigh.not_gt, if_neg hLow.not_ge]

/-- An angle of `(−π, π]` folds into `(−π/2, π/2]`. -/
theorem fold_mem {x : ℝ} (hLow : -Real.pi < x) (hHigh : x ≤ Real.pi) :
    -(Real.pi / 2) < exactNum.fold x ∧ exactNum.fold x ≤ Real.pi / 2 := by
  rw [exactNum_fold]
  split_ifs <;> constructor <;> linarith

/-- `z = 0` as the model decides it, from `<` alone. -/
theorem exactNum_cIsZero (z : Cx ℝ) : exactNum.cIsZero z = true ↔ toComplex z = 0 := by
  simp [Numerics.cIsZero, Numerics.isZero, toComplex, Complex.ext_iff, ← le_antisymm_iff]

/-- `arg` is the argument of the complex number, at 0 too. -/
theorem exactNum_arg (z : Cx ℝ) : exactNum.arg z = (toComplex z).arg := by
  unfold Numerics.arg
  split_ifs with hZero
  · rw [(exactNum_cIsZero z).mp hZero, Complex.arg_zero, exactNum_zero]
  · rfl

theorem exactNum_mag2 (z : Cx ℝ) : exactNum.mag2 z = z.re ^ 2 + z.im ^ 2 := by
  simp [Numerics.mag2, sq]

/-- `mag` is the norm of the complex number. -/
theorem exactNum_mag (z : Cx ℝ) : exactNum.mag z = ‖toComplex z‖ := by
  rw [Complex.norm_eq_sqrt_sq_add_sq, Numerics.mag, exactNum_mag2]
  rfl

theorem exactNum_conj (z : Cx ℝ) : exactNum.conj z = ⟨z.re, -z.im⟩ := by simp [Numerics.conj]

theorem exactNum_sgn (x : ℝ) : exactNum.sgn x = if x < 0 then .neg else .pos := by
  simp [Numerics.sgn]

/-- A complex number in polar form, and the interval of its angle. -/
theorem arg_mem_and_polar (z : Cx ℝ) :
    (-Real.pi < exactNum.arg z ∧ exactNum.arg z ≤ Real.pi)
      ∧ z.re = exactNum.mag z * Real.cos (exactNum.arg z)
      ∧ z.im = exactNum.mag z * Real.sin (exactNum.arg z) := by
  rw [exactNum_arg, exactNum_mag, Complex.norm_mul_cos_arg, Complex.norm_mul_sin_arg]
  exact ⟨⟨Complex.neg_pi_lt_arg _, Complex.arg_le_pi _⟩, rfl, rfl⟩

/-- Settles O28, function by function. -/
theorem exactAngleFunctions : Obligations.ExactAngleFunctions := by
  refine ⟨fun x => ?wrap2pi, fun x => ?wrappi, fun x hLow hHigh => ?fold, fun z => ?arg, ?argZero,
    fun x => ?sgn⟩
  case wrap2pi => exact ⟨exactNum_wrap2pi x, wrap2pi_nonneg x, wrap2pi_lt_twoPi x⟩
  case wrappi =>
    have hNonneg := wrap2pi_nonneg (x + Real.pi)
    have hLt := wrap2pi_lt_twoPi (x + Real.pi)
    have hFormula := exactNum_wrappi x
    exact ⟨hFormula, by linarith, by linarith⟩
  case fold => exact ⟨fold_of_gt, fold_of_le, fold_of_between, fold_mem hLow hHigh⟩
  case arg =>
    obtain ⟨⟨hLow, hHigh⟩, hRe, hIm⟩ := arg_mem_and_polar z
    have hMag : exactNum.mag z = Real.sqrt (z.re ^ 2 + z.im ^ 2) := congrArg Real.sqrt (exactNum_mag2 z)
    exact ⟨hLow, hHigh, hRe, hIm, hMag, exactNum_mag2 z, exactNum_conj z⟩
  case argZero => rw [exactNum_arg]; exact Complex.arg_zero
  case sgn =>
    rw [exactNum_sgn]
    exact ⟨fun h => if_neg h.not_gt, fun h => if_pos h⟩

/-! ### The search of `argmax` over exact reals (R8) -/

/-- `j` is the least index of `a` at which the maximum is attained: no value exceeds `a[j]`, and every
earlier value is below it. -/
structure IsLeastMaximum (a : List ℝ) (j : Nat) : Prop where
  lt_length : j < a.length
  is_max : ∀ k, k < a.length → a.getD k 0 ≤ a.getD j 0
  is_least : ∀ k, k < j → a.getD k 0 < a.getD j 0

/-- Of the indices at which the maximum is attained, it is the least. -/
theorem IsLeastMaximum.le_of_is_max {a : List ℝ} {i j : Nat} (h : IsLeastMaximum a i)
    (hj : ∀ k, k < a.length → a.getD k 0 ≤ a.getD j 0) : i ≤ j := by
  by_contra hLess
  exact (h.is_least j (not_le.mp hLess)).not_ge (hj i h.lt_length)

theorem isLeastMaximum_singleton (x : ℝ) : IsLeastMaximum [x] 0 where
  lt_length := by simp
  is_max k hk := by
    obtain rfl : k = 0 := by simpa using hk
    exact le_rfl
  is_least k hk := absurd hk k.not_lt_zero

/-- One more element that does not exceed the maximum leaves it where it is. -/
theorem IsLeastMaximum.append_of_le {a : List ℝ} {j : Nat} (h : IsLeastMaximum a j) {x : ℝ}
    (hx : x ≤ a.getD j 0) : IsLeastMaximum (a ++ [x]) j := by
  have hKept (k : Nat) (hk : k < a.length) : (a ++ [x]).getD k 0 = a.getD k 0 :=
    List.getD_append a [x] 0 k hk
  refine ⟨h.lt_length.trans (by simp), fun k hk => ?_, fun k hk => ?_⟩
  · rw [hKept j h.lt_length]
    rcases Nat.lt_succ_iff_lt_or_eq.mp (by simpa using hk) with hOld | rfl
    · rw [hKept k hOld]; exact h.is_max k hOld
    · simpa using hx
  · rw [hKept j h.lt_length, hKept k (hk.trans h.lt_length)]
    exact h.is_least k hk

/-- One more element that exceeds the maximum is the new maximum, first attained at its own index. -/
theorem IsLeastMaximum.append_of_lt {a : List ℝ} {j : Nat} (h : IsLeastMaximum a j) {x : ℝ}
    (hx : a.getD j 0 < x) : IsLeastMaximum (a ++ [x]) a.length := by
  have hNew : (a ++ [x]).getD a.length 0 = x := by simp
  have hBelow (k : Nat) (hk : k < a.length) : (a ++ [x]).getD k 0 < x := by
    rw [List.getD_append a [x] 0 k hk]
    exact (h.is_max k hk).trans_lt hx
  refine ⟨by simp, fun k hk => ?_, fun k hk => ?_⟩
  · rw [hNew]
    rcases Nat.lt_succ_iff_lt_or_eq.mp (by simpa using hk) with hOld | rfl
    · exact (hBelow k hOld).le
    · exact hNew.le
  · rw [hNew]; exact hBelow k hk

theorem argmaxFrom_cons (best : ℝ) (j i : Nat) (x : ℝ) (xs : List ℝ) :
    exactNum.argmaxFrom best j i (x :: xs) =
      if best < x then exactNum.argmaxFrom x i (i + 1) xs else exactNum.argmaxFrom best j (i + 1) xs := by
  simp [Numerics.argmaxFrom]

/-- The search, started at the least maximum of what it has passed, ends at that of the whole. -/
theorem argmaxFrom_isLeastMaximum (xs pre : List ℝ) (j : Nat) (h : IsLeastMaximum pre j) :
    IsLeastMaximum (pre ++ xs) (exactNum.argmaxFrom (pre.getD j 0) j pre.length xs) := by
  induction xs generalizing pre j with
  | nil => simpa [Numerics.argmaxFrom] using h
  | cons x xs ih =>
    have hSplit : pre ++ x :: xs = (pre ++ [x]) ++ xs := by simp
    rw [hSplit, argmaxFrom_cons]
    split_ifs with hx
    · have hStep := ih (pre ++ [x]) pre.length (h.append_of_lt hx)
      simpa using hStep
    · have hStep := ih (pre ++ [x]) j (h.append_of_le (not_lt.mp hx))
      rw [List.getD_append pre [x] 0 j h.lt_length] at hStep
      simpa using hStep

theorem argmax_isLeastMaximum {a : List ℝ} (ha : a ≠ []) : IsLeastMaximum a (exactNum.argmax a) := by
  cases a with
  | nil => exact absurd rfl ha
  | cons x xs => exact argmaxFrom_isLeastMaximum xs [x] 0 (isLeastMaximum_singleton x)

/-- Settles O29: the search keeps the least maximum of what it has passed. -/
theorem argmaxIsLeastMaximum : Obligations.ArgmaxIsLeastMaximum := by
  intro a ha
  have hLeast := argmax_isLeastMaximum ha
  exact ⟨hLeast.lt_length, hLeast.is_max, fun j _ hMax => hLeast.le_of_is_max hMax⟩

/-! ### Every change of an oscillator keeps its phase wrapped (R120 to R124)

Over exact reals `phaseWrapped` of an oscillator needs nothing of the one before it where the rule wraps
(R121, R124), and is inherited where only the increment changes (R122, R123). -/

theorem phaseWrapped_oscNew : phaseWrapped (oscNew exactNum) := by
  simp [phaseWrapped, oscNew, Real.pi_pos]

theorem phaseWrapped_oscAdvance (o : Osc ℝ) : phaseWrapped (oscAdvance exactNum o) :=
  ⟨wrap2pi_nonneg _, wrap2pi_lt_twoPi _⟩

theorem phaseWrapped_oscAdvancePhase (dtheta : ℝ) (o : Osc ℝ) :
    phaseWrapped (oscAdvancePhase exactNum dtheta o) :=
  ⟨wrap2pi_nonneg _, wrap2pi_lt_twoPi _⟩

@[simp] theorem phaseWrapped_oscSetFrequency (cfg : Cfg) (f : ℝ) (o : Osc ℝ) :
    phaseWrapped (oscSetFrequency exactNum cfg f o) ↔ phaseWrapped o := Iff.rfl

@[simp] theorem phaseWrapped_oscAddFrequency (cfg : Cfg) (df : ℝ) (o : Osc ℝ) :
    phaseWrapped (oscAddFrequency exactNum cfg df o) ↔ phaseWrapped o := Iff.rfl

/-- Mixing a run of samples leaves a wrapped oscillator wrapped (R126). -/
theorem phaseWrapped_mixAll (xs : List (Cx ℝ)) (o : Osc ℝ) (h : phaseWrapped o) :
    phaseWrapped (mixAll exactNum o xs).2 := by
  induction xs generalizing o with
  | nil => exact h
  | cons x xs ih => exact ih _ (phaseWrapped_oscAdvance o)

/-- The trial oscillator after a down-conversion, which starts from a new one (R195). -/
theorem phaseWrapped_downConvert (cfg : Cfg) (capture : List (Cx ℝ)) (h : Nat) :
    phaseWrapped (downConvert exactNum cfg capture h).2 :=
  phaseWrapped_mixAll capture _ phaseWrapped_oscNew

/-! ### The lock state machine away from the carrier loops leaves the oscillator alone

These hold over any `NUM`: the navigation and the counters never write `nco`. -/

section ChannelFrame

variable {α : Type} (num : Numerics α)

@[simp] theorem entryActions_nco (old new : LockState) (c : Channel α) :
    (entryActions num old new c).nco = c.nco := by
  cases new <;> rfl

@[simp] theorem goto_nco (s : Nat) (new : LockState) (cause : Cause) (c : Channel α) :
    (goto num s new cause c).ch.nco = c.nco := by
  simp [goto]

@[simp] theorem preambleBit_nco (s : Nat) (bit : Bool) (c : Channel α) :
    (preambleBit num s bit c).ch.nco = c.nco := by
  simp only [preambleBit, preambleTest, preambleMatch]
  split_ifs <;> simp

@[simp] theorem keepSubframe_nco (s : Nat) (c : Channel α) : (keepSubframe s c).ch.nco = c.nco := by
  unfold keepSubframe
  split_ifs <;> rfl

@[simp] theorem acceptSubframe_nco (s : Nat) (c : Channel α) :
    (acceptSubframe num s c).ch.nco = c.nco := by
  simp [acceptSubframe]

@[simp] theorem rejectSubframe_nco (s idx : Nat) (c : Channel α) :
    (rejectSubframe num s idx c).ch.nco = c.nco := by
  simp [rejectSubframe]

@[simp] theorem validateSubframe_nco (s : Nat) (c : Channel α) :
    (validateSubframe num s c).ch.nco = c.nco := by
  simp only [validateSubframe]
  split
  · simp
  · split_ifs <;> simp

@[simp] theorem subframeBit_nco (s : Nat) (bit : Bool) (c : Channel α) :
    (subframeBit num s bit c).ch.nco = c.nco := by
  simp only [subframeBit]
  split_ifs <;> simp

@[simp] theorem chBit_nco (s : Nat) (bit : Bool) (c : Channel α) :
    (chBit num s bit c).ch.nco = c.nco := by
  unfold chBit
  split <;> simp

@[simp] theorem offsetStage_nco (s : Nat) (ok : Bool) (c : Channel α) :
    (offsetStage num s ok c).ch.nco = c.nco := by
  simp only [offsetStage]
  split_ifs <;> simp

@[simp] theorem offsetInvalidLater_nco (s : Nat) (c : Channel α) :
    (offsetInvalidLater num s c).ch.nco = c.nco := by
  simp only [offsetInvalidLater]
  split_ifs <;> simp

@[simp] theorem pllCount_nco (s : Nat) (ok : Bool) (c : Channel α) :
    (pllCount num s ok c).ch.nco = c.nco := by
  simp only [pllCount]
  split_ifs <;> simp

@[simp] theorem iqCount_nco (s : Nat) (ok : Bool) (c : Channel α) :
    (iqCount num s ok c).ch.nco = c.nco := by
  simp only [iqCount]
  split_ifs <;> simp

@[simp] theorem bitSyncStage_nco (s : Nat) (peak : Cx α) (c : Channel α) :
    (bitSyncStage num s peak c).ch.nco = c.nco := by
  simp only [bitSyncStage]
  split_ifs <;> simp

@[simp] theorem bitStage_nco (s : Nat) (peak : Cx α) (c : Channel α) :
    (bitStage num s peak c).ch.nco = c.nco := by
  simp only [bitStage, bitSyncLost, bitDecision]
  split_ifs <;> simp

/-- A rule under `ifAlive` leaves the oscillator alone if the rule does. -/
theorem ifAlive_nco {f : Channel α → Tracked α} (hf : ∀ c, (f c).ch.nco = c.nco) (c : Channel α) :
    (ifAlive f c).ch.nco = c.nco := by
  unfold ifAlive
  split_ifs
  · exact hf c
  · rfl

@[simp] theorem startPeriod_nco (cfg : Cfg) (c : Channel α) : (startPeriod cfg c).nco = c.nco := by
  unfold startPeriod
  split_ifs <;> rfl

@[simp] theorem livenessPoll_nco (s : Nat) (c : Channel α) : (livenessPoll s c).ch.nco = c.nco := by
  unfold livenessPoll
  split_ifs <;> rfl

end ChannelFrame

/-! ### The carrier loops keep the phase wrapped -/

theorem phaseWrapped_outlier (cfg : Cfg) (c : Channel ℝ) (h : phaseWrapped c.nco) :
    phaseWrapped (outlier exactNum cfg c).nco := by
  simp only [outlier]
  split_ifs
  · exact (phaseWrapped_oscAddFrequency ..).mpr h
  · exact h

theorem phaseWrapped_estimate (cfg : Cfg) (s : Nat) (c : Channel ℝ) (h : phaseWrapped c.nco) :
    phaseWrapped (estimate exactNum cfg s c).ch.nco := by
  have hAdd (f : ℝ) : phaseWrapped (oscAddFrequency exactNum cfg f (maPush f c).nco) := h
  simp only [estimate]
  split_ifs
  · rw [goto_nco]; exact hAdd _
  · exact hAdd _

theorem phaseWrapped_frequencyStage (cfg : Cfg) (s : Nat) (peak : Cx ℝ) (c : Channel ℝ)
    (h : phaseWrapped c.nco) : phaseWrapped (frequencyStage exactNum cfg s peak c).ch.nco := by
  simp only [frequencyStage, frequencyDelta]
  split_ifs
  · exact phaseWrapped_estimate cfg s _ h
  · exact h
  · exact phaseWrapped_outlier cfg _ h
  · exact h

theorem phaseWrapped_trkPll (cfg : Cfg) (peak : Cx ℝ) (c : Channel ℝ) (h : phaseWrapped c.nco) :
    phaseWrapped (trkPll exactNum cfg peak c).nco := by
  simp only [trkPll, pllPush]
  split_ifs
  · exact phaseWrapped_oscAdvancePhase _ _
  · exact h

/-! ### A channel, from one period to a whole block -/

theorem phaseWrapped_validPeriod (cfg : Cfg) (s : Nat) (peak : Cx ℝ) (c : Channel ℝ)
    (h : phaseWrapped c.nco) : phaseWrapped (validPeriod exactNum cfg s peak c).ch.nco := by
  have hPll := phaseWrapped_trkPll cfg peak c h
  have hSync := ifAlive_nco (bitSyncStage_nco exactNum s peak)
  have hBit := ifAlive_nco (bitStage_nco exactNum s peak)
  unfold validPeriod
  cases c.state with
  | frequencyAcquire => exact phaseWrapped_frequencyStage cfg s peak c h
  | pllAcquire => simpa using hPll
  | bitAcquire => simpa [hSync] using hPll
  | preambleAcquire => simpa [hBit] using hPll
  | subframeAcquire => simpa [hBit] using hPll
  | offsetAcquire => exact h
  | signalLost => exact h

theorem phaseWrapped_trkStep (cfg : Cfg) (s : Nat) (offOk : Bool) (peak : Cx ℝ) (c : Channel ℝ)
    (h : phaseWrapped c.nco) : phaseWrapped (trkStep exactNum cfg s offOk peak c).ch.nco := by
  unfold trkStep
  split_ifs
  · simpa using h
  · exact h
  · exact phaseWrapped_validPeriod cfg s peak _ h
  · simpa using h

theorem phaseWrapped_chPeriod (cfg : Cfg) (spec : List (Cx ℝ)) (s : Nat) (c : Channel ℝ)
    (h : phaseWrapped c.nco) : phaseWrapped (chPeriod exactNum cfg spec s c).ch.nco := by
  have hStep (o : Int) (ok : Bool) (peak : Cx ℝ) :=
    phaseWrapped_trkStep cfg s ok peak { c with codeOff := o } h
  simp only [chPeriod, andThen_ch, quiet_ch]
  split_ifs
  · rw [startPeriod_nco]; exact hStep ..
  · exact hStep ..

theorem phaseWrapped_chFeed (cfg : Cfg) (spec : List (Cx ℝ)) (s : Nat) (x : Cx ℝ) (c : Channel ℝ)
    (h : phaseWrapped c.nco) : phaseWrapped (chFeed exactNum cfg spec s x c).ch.nco := by
  have hAdv := phaseWrapped_oscAdvance c.nco
  simp only [chFeed]
  split_ifs
  · exact hAdv
  · exact phaseWrapped_chPeriod cfg spec s _ hAdv
  · exact hAdv
  · exact h

theorem phaseWrapped_deliver (b : Block ℝ) (s : Nat) (c : Channel ℝ) (h : phaseWrapped c.nco) :
    phaseWrapped (deliver exactNum b s c).ch.nco := by
  unfold deliver
  split_ifs
  · exact feedAll_keeps (p := fun c => phaseWrapped c.nco) (phaseWrapped_chFeed b.cfg _ s) _ c h
  · exact h

/-! ### The block: acquisition, the block boundary, the commands -/

theorem phasesWrapped_setNcoH {o : Osc ℝ} {b : Block ℝ} (ho : phaseWrapped o) (h : phasesWrapped b) :
    phasesWrapped (setNcoH o b) := by
  obtain ⟨-, hAcq, hCh⟩ := h
  exact ⟨ho, hAcq, hCh⟩

theorem phasesWrapped_raise (e : Condition) {b : Block ℝ} (h : phasesWrapped b) :
    phasesWrapped (raise e b) := by
  cases e <;> exact h

/-- An operation on all slots keeps the phases wrapped if it does so slot by slot. -/
theorem phasesWrapped_onSlots {f : Nat → Channel ℝ → Tracked ℝ} {b : Block ℝ}
    (hf : ∀ s c, phaseWrapped c.nco → phaseWrapped (f s c).ch.nco) (h : phasesWrapped b) :
    phasesWrapped (onSlots f b) := by
  obtain ⟨hHost, hAcq, hCh⟩ := h
  exact ⟨hHost, hAcq, forSlots_all hf 1 b.ch hCh⟩

theorem phasesWrapped_acqSweep {b : Block ℝ} (h : phasesWrapped b) :
    phasesWrapped (acqSweep exactNum b) := by
  obtain ⟨hHost, -, hCh⟩ := h
  exact ⟨hHost, phaseWrapped_downConvert .., hCh⟩

theorem phasesWrapped_pollSweep {b : Block ℝ} (h : phasesWrapped b) :
    phasesWrapped (pollSweep exactNum b) := by
  simp only [pollSweep]
  split_ifs
  · exact phasesWrapped_acqSweep (b := { b with draws := drawsAfter b }) h
  · exact h

theorem phasesWrapped_acqPromote (s : Nat) (f : ℝ) {b : Block ℝ} (h : phasesWrapped b) :
    phasesWrapped (acqPromote exactNum s f b) := by
  obtain ⟨hHost, hAcq, hCh⟩ := h
  refine ⟨hHost, hAcq, fun c hc => ?_⟩
  rcases List.mem_or_eq_of_mem_set hc with hOld | rfl
  · exact hCh c hOld
  · exact phaseWrapped_oscNew

theorem phasesWrapped_reportOne (x : Found ℝ) {b : Block ℝ} (h : phasesWrapped b) :
    phasesWrapped (reportOne exactNum b x) := by
  simp only [reportOne]
  split_ifs
  · exact phasesWrapped_acqPromote _ _ h
  · exact h

theorem phasesWrapped_reportAll (xs : List (Found ℝ)) {b : Block ℝ} (h : phasesWrapped b) :
    phasesWrapped (xs.foldl (reportOne exactNum) b) := by
  induction xs generalizing b with
  | nil => exact h
  | cons x xs ih => exact ih (phasesWrapped_reportOne x h)

theorem phasesWrapped_acqReport {b : Block ℝ} (h : phasesWrapped b) :
    phasesWrapped (acqReport exactNum b) :=
  phasesWrapped_reportAll b.acq.found (b := emit (.acqDone b.acq.found.length) b) h

theorem phasesWrapped_acqPoll {b : Block ℝ} (h : phasesWrapped b) :
    phasesWrapped (acqPoll exactNum b) := by
  have hPoll : phasesWrapped (if b.acq.state = .searching then pollSweep exactNum b else b) := by
    split_ifs
    · exact phasesWrapped_pollSweep h
    · exact h
  simp only [acqPoll]
  split_ifs
  · exact phasesWrapped_acqReport (phasesWrapped_pollSweep h)
  · exact phasesWrapped_pollSweep h
  · exact phasesWrapped_acqReport h
  · exact h

theorem phasesWrapped_blockDone {b : Block ℝ} (h : phasesWrapped b) :
    phasesWrapped (blockDone exactNum b) := by
  have hPoll : phasesWrapped (acqPoll exactNum (onSlots livenessPoll (onSlots (deliver exactNum b) b))) :=
    phasesWrapped_acqPoll <|
      phasesWrapped_onSlots (fun s c hc => by simpa using hc) <|
        phasesWrapped_onSlots (phaseWrapped_deliver b) h
  exact hPoll

/-- The capture and its timer leave the trial oscillator alone (R190 to R193). -/
theorem acqFeed_nco {α : Type} (cfg : Cfg) (x : Cx α) (a : AcqEngine α) :
    (acqFeed cfg x a).nco = a.nco := by
  simp only [acqFeed, acqComplete, acqCapture, acqTrigger]
  split_ifs <;> rfl

theorem phasesWrapped_sampleStep (re im : ℝ) {b : Block ℝ} (h : phasesWrapped b) :
    phasesWrapped (sampleStep exactNum re im b) := by
  have hFed : phasesWrapped (assembleBlock ⟨re, im⟩ { b with acq := acqFeed b.cfg ⟨re, im⟩ b.acq }) := by
    obtain ⟨hHost, hAcq, hCh⟩ := h
    exact ⟨hHost, (acqFeed_nco b.cfg ⟨re, im⟩ b.acq).symm ▸ hAcq, hCh⟩
  simp only [sampleStep, takeSample]
  split_ifs
  · exact phasesWrapped_blockDone hFed
  · exact hFed
  · exact phasesWrapped_raise .nanSample h

/-! ### Every command, through the checks that stand before its effect -/

/-- An operation on the block whose next block, where it answers one, has its phases wrapped if they were
wrapped before. -/
def KeepsPhases (k : Block ℝ → BlockOutcome ℝ) : Prop :=
  ∀ b b', phasesWrapped b → k b = .next b' → phasesWrapped b'

theorem keepsPhases_of_next {f : Block ℝ → Block ℝ} (hf : ∀ b, phasesWrapped b → phasesWrapped (f b)) :
    KeepsPhases fun b => .next (f b) := by
  rintro b b' h ⟨⟩
  exact hf b h

theorem keepsPhases_whenRunning {k : Block ℝ → BlockOutcome ℝ} (hk : KeepsPhases k) :
    KeepsPhases (whenRunning k) := by
  intro b b' h hNext
  rcases whenRunning_next hNext with ⟨-, rfl⟩ | ⟨-, hRun⟩
  · exact h
  · exact hk b b' h hRun

theorem keepsPhases_whenLegal {k : Block ℝ → BlockOutcome ℝ} (ok : Bool) (hk : KeepsPhases k) :
    KeepsPhases (whenLegal ok k) := by
  intro b b' h hNext
  rcases whenLegal_next hNext with ⟨-, rfl⟩ | ⟨-, hLegal⟩
  · exact phasesWrapped_raise .illegalCommand h
  · exact hk b b' h hLegal

theorem keepsPhases_withOpa {k : ℝ → Block ℝ → BlockOutcome ℝ} (hk : ∀ x, KeepsPhases (k x)) :
    KeepsPhases (withOpa k) := by
  intro b b' h hNext
  obtain ⟨x, -, hRead⟩ := withOpa_next hNext
  exact hk x b b' h hRead

theorem keepsPhases_withOperands {k : ℝ → ℝ → Block ℝ → BlockOutcome ℝ}
    (hk : ∀ x y, KeepsPhases (k x y)) : KeepsPhases (withOperands k) := by
  intro b b' h hNext
  obtain ⟨x, y, -, -, hRead⟩ := withOperands_next hNext
  exact hk x y b b' h hRead

theorem keepsPhases_whenStreamIntact {k : Block ℝ → BlockOutcome ℝ} (consumed : Bool) (hk : KeepsPhases k) :
    KeepsPhases (whenStreamIntact consumed k) :=
  fun b b' h hNext => hk b b' h (whenStreamIntact_next hNext).2

theorem phasesWrapped_writeChStat (c : Channel ℝ) {b : Block ℝ} (h : phasesWrapped b) :
    phasesWrapped (writeChStat exactNum c b) := by
  unfold writeChStat
  split_ifs <;> exact h

/-- R120's invariant, command by command: only the oscillator commands and `SAMPLE` write an oscillator. -/
theorem keepsPhases_performOver (i : Instr) : KeepsPhases (performOver exactNum i) := by
  cases i with
  | nop => exact keepsPhases_of_next fun b h => h
  | ncoEval =>
    exact keepsPhases_whenRunning <| keepsPhases_of_next fun b h =>
      phasesWrapped_setNcoH (phaseWrapped_oscAdvance b.ncoH) h
  | ncoSetf =>
    exact keepsPhases_whenRunning <| keepsPhases_withOpa fun f => keepsPhases_of_next fun b h =>
      phasesWrapped_setNcoH ((phaseWrapped_oscSetFrequency b.cfg f b.ncoH).mpr h.1) h
  | ncoAddf =>
    exact keepsPhases_whenRunning <| keepsPhases_withOpa fun df => keepsPhases_of_next fun b h =>
      phasesWrapped_setNcoH ((phaseWrapped_oscAddFrequency b.cfg df b.ncoH).mpr h.1) h
  | ncoAdvp =>
    exact keepsPhases_whenRunning <| keepsPhases_withOpa fun dtheta => keepsPhases_of_next fun b h =>
      phasesWrapped_setNcoH (phaseWrapped_oscAdvancePhase dtheta b.ncoH) h
  | cgChip sat idx =>
    exact keepsPhases_whenRunning <| keepsPhases_whenLegal _ <| keepsPhases_of_next fun b h => h
  | cgSpec sat bin =>
    exact keepsPhases_whenRunning fun b0 =>
      keepsPhases_whenLegal (binLegal b0.cfg sat bin) (by rintro b b' h ⟨⟩; exact h) b0
  | sample =>
    exact keepsPhases_whenRunning <| keepsPhases_withOperands fun re im =>
      keepsPhases_whenStreamIntact _ <| keepsPhases_of_next fun b h => phasesWrapped_sampleStep re im h
  | chStat sat =>
    exact keepsPhases_whenRunning <| keepsPhases_whenLegal _ <| keepsPhases_of_next fun b h =>
      phasesWrapped_writeChStat _ h
  | acqStat => exact keepsPhases_whenRunning <| keepsPhases_of_next fun b h => h
  | sysStat =>
    intro b b' h hNext
    simp only [performOver, doSysStat] at hNext
    cases hMode : b.sys.mode with
    | fatal => rw [hMode] at hNext; cases hNext; exact h
    | run => rw [hMode] at hNext; cases hNext; exact h

/-- Reset creates every oscillator at phase 0 (R25, R43), in either mode. -/
theorem phasesWrapped_blockReset (cfg : Cfg) (draws : Nat) :
    phasesWrapped (blockReset exactNum cfg draws) := by
  have hWith (cg : CodeTables ℝ) : phasesWrapped (blockWith exactNum cfg draws cg) := by
    refine ⟨phaseWrapped_oscNew, phaseWrapped_oscNew, fun c hc => ?_⟩
    rw [List.eq_of_mem_replicate hc]
    exact phaseWrapped_oscNew
  unfold blockReset
  split_ifs
  · exact hWith _
  · exact phasesWrapped_raise .configFatal (hWith _)

/-- Settles O27: each command keeps the phases wrapped, through the checks before its effect, and reset
creates every oscillator at phase 0. -/
theorem exactPhasesStayWrapped : Obligations.ExactPhasesStayWrapped :=
  ⟨keepsPhases_performOver, phasesWrapped_blockReset⟩

/-! ### The report of a sweep (R196, R199) -/

section Report

variable {α : Type} (num : Numerics α)

theorem foundFrom_cons (s : Nat) (b : Best α) (bs : List (Best α)) :
    foundFrom num s (b :: bs) =
      if num.le num.ratioMin b.ratio then ⟨s, b.ratio, b.freq⟩ :: foundFrom num (s + 1) bs
      else foundFrom num (s + 1) bs := rfl

/-- An entry of the report is the best hypothesis of the satellite it names, where that is not below
`RATIO_MIN`. -/
theorem mem_foundFrom (s : Nat) (bs : List (Best α)) (x : Found α) :
    x ∈ foundFrom num s bs ↔
      ∃ i best, bs[i]? = some best ∧ num.le num.ratioMin best.ratio = true
        ∧ x = ⟨s + i, best.ratio, best.freq⟩ := by
  induction bs generalizing s with
  | nil => simp [foundFrom]
  | cons b bs ih =>
    have hHead : x ∈ foundFrom num s (b :: bs) ↔
        (num.le num.ratioMin b.ratio = true ∧ x = ⟨s, b.ratio, b.freq⟩)
          ∨ x ∈ foundFrom num (s + 1) bs := by
      rw [foundFrom_cons]
      split_ifs with hb <;> simp [hb]
    rw [hHead, ih]
    constructor
    · rintro (⟨hb, hx⟩ | ⟨i, best, hi, hb, hx⟩)
      · exact ⟨0, b, rfl, hb, hx⟩
      · exact ⟨i + 1, best, hi, hb, by rw [hx, Nat.add_right_comm, Nat.add_assoc]⟩
    · rintro ⟨i, best, hi, hb, hx⟩
      cases i with
      | zero => cases hi; exact .inl ⟨hb, hx⟩
      | succ i => exact .inr ⟨i, best, hi, hb, by rw [hx, Nat.add_right_comm, Nat.add_assoc]⟩

theorem foundFrom_sat_ge {s : Nat} {bs : List (Best α)} {x : Found α} (h : x ∈ foundFrom num s bs) :
    s ≤ x.sat := by
  obtain ⟨i, best, -, -, rfl⟩ := (mem_foundFrom num s bs x).mp h
  exact Nat.le_add_right s i

theorem foundFrom_ascending (s : Nat) (bs : List (Best α)) :
    (foundFrom num s bs).Pairwise fun x y => x.sat < y.sat := by
  induction bs generalizing s with
  | nil => exact .nil
  | cons b bs ih =>
    rw [foundFrom_cons]
    split_ifs
    · exact .cons (fun x hx => foundFrom_sat_ge num hx) (ih (s + 1))
    · exact ih (s + 1)

/-- Satellite `i + 1` stands at position `i` of the sweep's results. -/
theorem sweepAll_getElem? (b : Block α) (i : Nat) (best : Best α) :
    (sweepAll num b)[i]? = some best ↔
      i < 32 ∧ sweepSat num b.cfg (spectrumOf b (i + 1)) b.acq.buf = best := by
  simp [sweepAll, nSat, List.getElem?_eq_some_iff]

/-- The report of a sweep, satellite by satellite. -/
theorem mem_acqSweep_found (b : Block α) (x : Found α) :
    x ∈ (acqSweep num b).acq.found ↔
      1 ≤ x.sat ∧ x.sat ≤ 32
        ∧ x.ratio = (sweepSat num b.cfg (spectrumOf b x.sat) b.acq.buf).ratio
        ∧ x.freq = (sweepSat num b.cfg (spectrumOf b x.sat) b.acq.buf).freq
        ∧ num.lt x.ratio (num.lit 3 1) = false := by
  have hMem : x ∈ (acqSweep num b).acq.found ↔ ∃ i best, (sweepAll num b)[i]? = some best
      ∧ num.le num.ratioMin best.ratio = true ∧ x = ⟨1 + i, best.ratio, best.freq⟩ :=
    mem_foundFrom num 1 (sweepAll num b) x
  have hLe (r : α) : num.le num.ratioMin r = true ↔ num.lt r (num.lit 3 1) = false := by
    simp [Numerics.le, Numerics.ratioMin]
  simp only [hMem, sweepAll_getElem?, hLe]
  constructor
  · rintro ⟨i, best, ⟨hi, rfl⟩, hb, rfl⟩
    rw [Nat.add_comm 1 i]
    exact ⟨by simp, hi, rfl, rfl, hb⟩
  · obtain ⟨sat, ratio, freq⟩ := x
    rintro ⟨hLow, hHigh, hRatio, hFreq, hb⟩
    obtain ⟨i, rfl⟩ : ∃ i, sat = i + 1 := ⟨sat - 1, by dsimp at hLow; omega⟩
    dsimp at hHigh hRatio hFreq hb
    subst hRatio hFreq
    exact ⟨i, _, ⟨hHigh, rfl⟩, hb, by rw [Nat.add_comm]⟩

end Report

/-- Settles O39: the state and the best values are the sweep's own, and the report is read off them. -/
theorem foundExactlyAboveThreshold : Obligations.FoundExactlyAboveThreshold := by
  intro α num b
  refine ⟨rfl, ?bestRatio, ?bestFreq, foundFrom_ascending num 1 (sweepAll num b), mem_acqSweep_found num b⟩
  case bestRatio => exact List.map_map ..
  case bestFreq => exact List.map_map ..

/-! ### The steps of the port (R5, R20, R90, R91, R381) -/

theorem step_idle {s : State} (h : s.port = []) : step s = .next s := by
  simp only [step, h, portIdle]

theorem step_reset {s : State} {cfg : Cfg} {rest : List (PortEvent NumVal)} (h : s.port = .reset cfg :: rest) :
    step s = portReset cfg rest s := by
  simp only [step, h]

theorem step_command {s : State} {c : Command NumVal} {rest : List (PortEvent NumVal)} {i : Instr}
    (h : s.port = .command c :: rest) (hi : decode c.w = .ok i) :
    step s = exec i (acceptCommand c rest s) := by
  simp only [step, h, hi]

theorem acceptCommand_fatal (c : Command NumVal) (rest : List (PortEvent NumVal)) {s : State}
    (h : s.sys.mode = .fatal) : acceptCommand c rest s = { s with port := rest } := by
  simp only [acceptCommand, h]

theorem acceptCommand_run (c : Command NumVal) (rest : List (PortEvent NumVal)) {s : State}
    (h : s.sys.mode = .run) :
    acceptCommand c rest s = { s with toBlock := writeOperands c.opa c.opb s.toBlock, port := rest } := by
  simp only [acceptCommand, h]

/-- Settles O3, from the step at a command and the two modes of its acceptance. -/
theorem stepRunsDecodedCommand : Obligations.StepRunsDecodedCommand :=
  fun _ c rest _ hPort hDecode =>
    ⟨step_command hPort hDecode, acceptCommand_fatal c rest, acceptCommand_run c rest⟩

/-- The types of R3 and R91, in words. -/
theorem inType_iff (cfg : Cfg) : cfg.inType = true ↔
    0 < cfg.fsHz ∧ 1 ≤ cfg.nEpochs ∧ 0 < cfg.secNum ∧ 0 < cfg.secDen ∧ 50 ∣ cfg.fSearchMax
      ∧ (cfg.fsHz % 1023000 = 0 → cfg.fsHz / 1023000 ≤ 64) := by
  have hAligned : (!cfg.chipAligned || decide (cfg.spc ≤ 64)) = true ↔
      (cfg.fsHz % 1023000 = 0 → cfg.fsHz / 1023000 ≤ 64) := by
    have hChip : cfg.chipAligned = true ↔ cfg.fsHz % 1023000 = 0 := by simp [Cfg.chipAligned, chipRate]
    have hSpc : cfg.spc = cfg.fsHz / 1023000 := rfl
    rw [Bool.or_eq_true, Bool.not_eq_true', decide_eq_true_eq, ← hChip, imp_iff_not_or, Bool.not_eq_true, hSpc]
  have hStep : (cfg.fSearchMax % fStep == 0) = true ↔ 50 ∣ cfg.fSearchMax := by
    simp [fStep, Nat.dvd_iff_mod_eq_zero]
  simp only [Cfg.inType, Bool.and_eq_true, hAligned, hStep, decide_eq_true_eq, and_assoc]

theorem portReset_inType {cfg : Cfg} (rest : List (PortEvent NumVal)) (s : State) (h : cfg.inType = true) :
    portReset cfg rest s = .next { toBlock := blockReset Config.num cfg s.draws, port := rest } :=
  if_pos h

theorem portReset_not_inType {cfg : Cfg} (rest : List (PortEvent NumVal)) (s : State)
    (h : ¬ cfg.inType = true) : portReset cfg rest s = .refused .configOutOfType :=
  if_neg h

/-- Settles O4: the idle step, and reset on either side of the types of the configuration. -/
theorem stepWaitsOrResets : Obligations.StepWaitsOrResets := by
  refine ⟨fun s hPort => step_idle hPort, fun s cfg rest hPort => ?_⟩
  rw [step_reset hPort, ← inType_iff]
  exact ⟨portReset_inType rest s, portReset_not_inType rest s⟩

end Sys2Proof.Machine

/-! PROOFS. State: the statements of 10_state.md: what a step can change, reset and the creation values
(R43, R30 to R39), the conditions (R20, R96), and what every step keeps (R342, R192 to R202, R32 to R38). -/

namespace Sys2Proof.Machine

/-! ### What a command that consumes no sample can change

It writes the command registers and the host's oscillator and may set a sticky flag; everything else of the
block is as it was (R20, R23, R364). -/

section HostChange

variable {α : Type} {b b' b'' : Block α}

/-- `b'` is `b` but for the command registers, the host's oscillator and sticky flags that may have been
set. -/
def HostChange (b b' : Block α) : Prop :=
  ∃ cmd ncoH errCmd errNan, b' = { b with
    cmd := cmd, ncoH := ncoH
    sys := { b.sys with errCmd := b.sys.errCmd || errCmd, errNan := b.sys.errNan || errNan } }

theorem hostChange_write (b : Block α) (cmd : CmdRegs α) (o : Osc α) :
    HostChange b { b with cmd := cmd, ncoH := o } :=
  ⟨cmd, o, false, false, by simp⟩

theorem hostChange_refl (b : Block α) : HostChange b b := hostChange_write b b.cmd b.ncoH

theorem HostChange.trans (h : HostChange b b') (h' : HostChange b' b'') : HostChange b b'' := by
  obtain ⟨_, _, errCmd, errNan, rfl⟩ := h
  obtain ⟨cmd', o', errCmd', errNan', rfl⟩ := h'
  exact ⟨cmd', o', errCmd || errCmd', errNan || errNan', by simp [Bool.or_assoc]⟩

theorem HostChange.cfg (h : HostChange b b') : b'.cfg = b.cfg := by
  obtain ⟨_, _, _, _, rfl⟩ := h; rfl

theorem HostChange.mode (h : HostChange b b') : b'.sys.mode = b.sys.mode := by
  obtain ⟨_, _, _, _, rfl⟩ := h; rfl

theorem hostChange_illegalCommand (b : Block α) : HostChange b (raise .illegalCommand b) :=
  ⟨{ b.cmd with resi := 0xFFFFFFFF#32 }, b.ncoH, true, false, by simp [raise, writeResi]⟩

theorem hostChange_nanSample (b : Block α) : HostChange b (raise .nanSample b) :=
  ⟨b.cmd, b.ncoH, false, true, by simp [raise]⟩

theorem hostChange_writeChStat (num : Numerics α) (c : Channel α) (b : Block α) :
    HostChange b (writeChStat num c b) := by
  unfold writeChStat
  split_ifs <;> exact hostChange_write b _ b.ncoH

/-- The check of FATAL mode, which lets nothing happen there. -/
theorem hostChange_whenRunning {k : Block α → BlockOutcome α}
    (hk : ∀ b', k b = .next b' → HostChange b b') (h : whenRunning k b = .next b') : HostChange b b' := by
  rcases whenRunning_next h with ⟨-, rfl⟩ | ⟨-, hRun⟩
  · exact hostChange_refl b'
  · exact hk b' hRun

/-- The range check of a command, which raises IllegalCommand. -/
theorem hostChange_whenLegal {ok : Bool} {k : Block α → BlockOutcome α}
    (hk : ∀ b', k b = .next b' → HostChange b b') (h : whenLegal ok k b = .next b') : HostChange b b' := by
  rcases whenLegal_next h with ⟨-, rfl⟩ | ⟨-, hLegal⟩
  · exact hostChange_illegalCommand b
  · exact hk b' hLegal

theorem hostChange_withOpa {k : α → Block α → BlockOutcome α}
    (hk : ∀ x b', k x b = .next b' → HostChange b b') (h : withOpa k b = .next b') : HostChange b b' := by
  obtain ⟨x, -, hRead⟩ := withOpa_next h
  exact hk x b' hRead

/-- Every command but `SAMPLE`. -/
theorem performOver_hostChange {num : Numerics α} {i : Instr} (hi : i ≠ .sample)
    (h : performOver num i b = .next b') : HostChange b b' := by
  cases i with
  | nop => cases h; exact hostChange_refl b
  | ncoEval =>
    refine hostChange_whenRunning ?_ (show doNcoEval num b = .next b' from h)
    rintro b' ⟨⟩; exact hostChange_write b _ _
  | ncoSetf =>
    refine hostChange_whenRunning (fun b' => hostChange_withOpa ?_) h
    rintro f b' ⟨⟩; exact hostChange_write b b.cmd _
  | ncoAddf =>
    refine hostChange_whenRunning (fun b' => hostChange_withOpa ?_) h
    rintro df b' ⟨⟩; exact hostChange_write b b.cmd _
  | ncoAdvp =>
    refine hostChange_whenRunning (fun b' => hostChange_withOpa ?_) h
    rintro dtheta b' ⟨⟩; exact hostChange_write b b.cmd _
  | cgChip sat idx =>
    refine hostChange_whenRunning (fun b' => hostChange_whenLegal ?_) h
    rintro b' ⟨⟩; exact hostChange_write b _ b.ncoH
  | cgSpec sat bin =>
    refine hostChange_whenRunning (fun b' => hostChange_whenLegal ?_) h
    rintro b' ⟨⟩; exact hostChange_write b _ b.ncoH
  | sample => exact absurd rfl hi
  | chStat sat =>
    refine hostChange_whenRunning (fun b' => hostChange_whenLegal ?_) h
    rintro b' ⟨⟩; exact hostChange_writeChStat num _ b
  | acqStat =>
    refine hostChange_whenRunning ?_ (show doAcqStat b = .next b' from h)
    rintro b' ⟨⟩; exact hostChange_write b _ b.ncoH
  | sysStat =>
    simp only [performOver, doSysStat] at h
    cases hMode : b.sys.mode with
    | fatal => rw [hMode] at h; cases h; exact hostChange_write b _ b.ncoH
    | run => rw [hMode] at h; cases h; exact hostChange_write b _ b.ncoH

/-- What `SAMPLE` can answer: a host's change, or the sample taken in mode RUN. -/
theorem doSample_next {num : Numerics α} (h : doSample num b = .next b') :
    HostChange b b' ∨ ∃ x, b.sys.mode = .run ∧ b' = takeSample num x b := by
  rcases whenRunning_next h with ⟨-, rfl⟩ | ⟨hRun, hOperands⟩
  · exact .inl (hostChange_refl b')
  obtain ⟨re, im, -, -, hGuarded⟩ := withOperands_next hOperands
  obtain ⟨-, hStep⟩ := whenStreamIntact_next hGuarded
  cases hStep
  unfold sampleStep
  split_ifs
  · exact .inr ⟨⟨re, im⟩, hRun, rfl⟩
  · exact .inl (hostChange_nanSample b)

/-- What a command can do: a host's change, or a sample taken in mode RUN. -/
theorem performOver_next {num : Numerics α} {i : Instr} (h : performOver num i b = .next b') :
    HostChange b b' ∨ ∃ x, b.sys.mode = .run ∧ b' = takeSample num x b := by
  by_cases hi : i = .sample
  · subst hi; exact doSample_next h
  · exact .inl (performOver_hostChange hi h)

end HostChange

/-! ### What a step can do (R5) -/

theorem step_rejected {s : State} {c : Command NumVal} {rest : List (PortEvent NumVal)} {e : Reject}
    (h : s.port = .command c :: rest) (he : decode c.w = .error e) :
    step s = illegalWord (acceptCommand c rest s) := by
  simp only [step, h, he]

@[simp] theorem acceptCommand_port (c : Command NumVal) (rest : List (PortEvent NumVal)) (s : State) :
    (acceptCommand c rest s).port = rest := by
  unfold acceptCommand
  split <;> rfl

theorem hostChange_acceptCommand (c : Command NumVal) (rest : List (PortEvent NumVal)) (s : State) :
    HostChange s.toBlock (acceptCommand c rest s).toBlock := by
  unfold acceptCommand
  split
  · exact hostChange_refl _
  · exact hostChange_write _ _ _

theorem illegalWord_next {s t : State} (h : illegalWord s = .next t) :
    HostChange s.toBlock t.toBlock ∧ t.port = s.port := by
  obtain ⟨hBlock, hPort⟩ := onBlock_next h
  refine ⟨hostChange_whenRunning ?_ hBlock, hPort⟩
  rintro b' ⟨⟩
  exact hostChange_illegalCommand _

/-- A step that takes a command: the command leaves the port, and the block has undergone a host's change,
after which, with `SAMPLE` in mode RUN, a sample may have been taken. -/
theorem step_command_next {s t : State} {c : Command NumVal} {rest : List (PortEvent NumVal)}
    (hPort : s.port = .command c :: rest) (h : step s = .next t) :
    t.port = rest ∧ ∃ b, HostChange s.toBlock b
      ∧ (t.toBlock = b ∨ ∃ x, b.sys.mode = .run ∧ t.toBlock = takeSample Config.num x b) := by
  have hAccept := hostChange_acceptCommand c rest s
  cases hDecode : decode c.w with
  | error e =>
    rw [step_rejected hPort hDecode] at h
    obtain ⟨hChange, hRest⟩ := illegalWord_next h
    exact ⟨by simpa using hRest, t.toBlock, hAccept.trans hChange, .inl rfl⟩
  | ok i =>
    rw [step_command hPort hDecode, exec_eq_performOver] at h
    obtain ⟨hBlock, hRest⟩ := onBlock_next h
    refine ⟨by simpa using hRest, ?_⟩
    rcases performOver_next hBlock with hChange | hSample
    · exact ⟨t.toBlock, hAccept.trans hChange, .inl rfl⟩
    · exact ⟨_, hAccept, .inr hSample⟩

/-! ### What a sample leaves alone (R341 to R343)

The boundary of a block writes the acquisition engine, the slots, the event stream and the draw counter;
of the dispatcher's state only the block's fill. -/

section BoundaryChange

variable {α : Type} (num : Numerics α) {b b' b'' : Block α}

/-- `b'` is `b` but for the acquisition engine, the slots, events appended and the draw counter. -/
def BoundaryChange (b b' : Block α) : Prop :=
  ∃ acq ch es draws, b' = { b with acq := acq, ch := ch, evOut := b.evOut ++ es, draws := draws }

theorem boundaryChange_engine (b : Block α) (acq : AcqEngine α) (draws : Nat) :
    BoundaryChange b { b with acq := acq, draws := draws } :=
  ⟨acq, b.ch, [], draws, by simp⟩

theorem boundaryChange_refl (b : Block α) : BoundaryChange b b := boundaryChange_engine b b.acq b.draws

theorem BoundaryChange.trans (h : BoundaryChange b b') (h' : BoundaryChange b' b'') :
    BoundaryChange b b'' := by
  obtain ⟨_, _, es, _, rfl⟩ := h
  obtain ⟨acq', ch', es', draws', rfl⟩ := h'
  exact ⟨acq', ch', es ++ es', draws', by simp⟩

theorem boundaryChange_emit (e : Event α) (b : Block α) : BoundaryChange b (emit e b) :=
  ⟨b.acq, b.ch, [e], b.draws, rfl⟩

theorem boundaryChange_setChannel (s : Nat) (c : Channel α) (b : Block α) :
    BoundaryChange b (setChannel s c b) :=
  ⟨b.acq, b.ch.set (s - 1) c, [], b.draws, by simp [setChannel]⟩

theorem boundaryChange_onSlots (f : Nat → Channel α → Tracked α) (b : Block α) :
    BoundaryChange b (onSlots f b) :=
  ⟨b.acq, (forSlots f 1 b.ch).1, (forSlots f 1 b.ch).2, b.draws, rfl⟩

theorem boundaryChange_reportOne (b : Block α) (x : Found α) : BoundaryChange b (reportOne num b x) := by
  simp only [reportOne]
  split_ifs
  · exact (boundaryChange_emit _ b).trans ((boundaryChange_setChannel ..).trans (boundaryChange_emit ..))
  · exact boundaryChange_emit _ b

theorem boundaryChange_reportAll (xs : List (Found α)) (b : Block α) :
    BoundaryChange b (xs.foldl (reportOne num) b) := by
  induction xs generalizing b with
  | nil => exact boundaryChange_refl b
  | cons x xs ih => exact (boundaryChange_reportOne num b x).trans (ih _)

theorem boundaryChange_acqReport (b : Block α) : BoundaryChange b (acqReport num b) :=
  (boundaryChange_emit _ b).trans
    ((boundaryChange_reportAll num b.acq.found _).trans (boundaryChange_engine ..))

theorem boundaryChange_pollSweep (b : Block α) : BoundaryChange b (pollSweep num b) := by
  simp only [pollSweep]
  split_ifs <;> exact boundaryChange_engine ..

theorem boundaryChange_acqPoll (b : Block α) : BoundaryChange b (acqPoll num b) := by
  simp only [acqPoll]
  split_ifs
  · exact (boundaryChange_pollSweep num b).trans (boundaryChange_acqReport num _)
  · exact boundaryChange_pollSweep num b
  · exact boundaryChange_acqReport num b
  · exact boundaryChange_refl b

/-- The boundary of a block, spelled out: the block's fill, and a boundary's change. -/
theorem blockDone_eq (b : Block α) : ∃ acq ch es draws, blockDone num b =
    { b with sys := { b.sys with blkFill := 0 }, acq := acq, ch := ch, evOut := b.evOut ++ es
             draws := draws } := by
  have hChange : BoundaryChange b (acqPoll num (onSlots livenessPoll (onSlots (deliver num b) b))) :=
    (boundaryChange_onSlots _ b).trans
      ((boundaryChange_onSlots _ _).trans (boundaryChange_acqPoll num _))
  obtain ⟨acq, ch, es, draws, hPoll⟩ := hChange
  exact ⟨acq, ch, es, draws, by simp only [blockDone, hPoll]⟩

@[simp] theorem blockDone_cfg (b : Block α) : (blockDone num b).cfg = b.cfg := by
  obtain ⟨_, _, _, _, h⟩ := blockDone_eq num b
  rw [h]

@[simp] theorem blockDone_sys (b : Block α) :
    (blockDone num b).sys = { b.sys with blkFill := 0 } := by
  obtain ⟨_, _, _, _, h⟩ := blockDone_eq num b
  rw [h]

/-- The block with a sample fed to the acquisition engine and assembled (R341), before its boundary. -/
def fedSample (x : Cx α) (b : Block α) : Block α :=
  assembleBlock x { b with acq := acqFeed b.cfg x b.acq }

/-- A sample is taken within a block, or as the last of its block. -/
theorem takeSample_cases (x : Cx α) (b : Block α) :
    (b.sys.blkFill + 1 ≠ b.cfg.n ∧ takeSample num x b = fedSample x b)
      ∨ (b.sys.blkFill + 1 = b.cfg.n ∧ takeSample num x b = blockDone num (fedSample x b)) := by
  by_cases hFull : b.sys.blkFill + 1 = b.cfg.n
  · exact .inr ⟨hFull, if_pos hFull⟩
  · exact .inl ⟨hFull, if_neg hFull⟩

/-- A sample taken, spelled out: the block being assembled, its fill and timestamp, the sample index, and a
boundary's change. -/
theorem takeSample_eq (x : Cx α) (b : Block α) :
    ∃ blk blkFill blkT0 sidx acq ch es draws, takeSample num x b =
      { b with
        sys := { b.sys with blk := blk, blkFill := blkFill, blkT0 := blkT0, sidx := sidx }
        acq := acq, ch := ch, evOut := b.evOut ++ es, draws := draws } := by
  rcases takeSample_cases num x b with ⟨-, h⟩ | ⟨-, h⟩
  · exact ⟨_, _, _, _, _, _, [], _, by rw [h, List.append_nil]; rfl⟩
  · obtain ⟨acq, ch, es, draws, hDone⟩ := blockDone_eq num (fedSample x b)
    exact ⟨_, _, _, _, acq, ch, es, draws, by rw [h, hDone]; rfl⟩

@[simp] theorem takeSample_cfg (x : Cx α) (b : Block α) : (takeSample num x b).cfg = b.cfg := by
  obtain ⟨_, _, _, _, _, _, _, _, h⟩ := takeSample_eq num x b
  rw [h]

end BoundaryChange

/-- Settles O9: neither a host's change nor a sample writes the mode, the configuration or the tables. -/
theorem commandsKeepModeAndTables : Obligations.CommandsKeepModeAndTables := by
  intro s t c rest hPort hStep
  obtain ⟨hRest, b, ⟨_, _, _, _, rfl⟩, hBlock | ⟨x, -, hBlock⟩⟩ := step_command_next hPort hStep
  · rw [hBlock]; exact ⟨rfl, rfl, rfl, hRest⟩
  · obtain ⟨_, _, _, _, _, _, _, _, hTaken⟩ := takeSample_eq Config.num x _
    rw [hBlock, hTaken]; exact ⟨rfl, rfl, rfl, hRest⟩

/-- Settles O10: a host's change only sets flags, and a sample only appends events. -/
theorem flagsAndEventsAccumulate : Obligations.FlagsAndEventsAccumulate := by
  intro s t c rest hPort hStep
  obtain ⟨-, b, ⟨_, _, errCmd, errNan, rfl⟩, hBlock | ⟨x, -, hBlock⟩⟩ := step_command_next hPort hStep
  · rw [hBlock]
    exact ⟨Bool.or_inl, Bool.or_inl, [], (List.append_nil _).symm⟩
  · obtain ⟨_, _, _, _, _, _, es, _, hTaken⟩ := takeSample_eq Config.num x _
    rw [hBlock, hTaken]
    exact ⟨Bool.or_inl, Bool.or_inl, es, rfl⟩

/-! ### An invariant of mode RUN, packaged once -/

theorem blockReset_aligned {α : Type} (num : Numerics α) {cfg : Cfg} (draws : Nat) (h : cfg.chipAligned = true) :
    blockReset num cfg draws = blockWith num cfg draws (codeTables num cfg) :=
  if_pos h

theorem blockReset_notAligned {α : Type} (num : Numerics α) {cfg : Cfg} (draws : Nat)
    (h : ¬ cfg.chipAligned = true) :
    blockReset num cfg draws = raise .configFatal (blockWith num cfg draws codeTablesNone) :=
  if_neg h

/-- A reset that leaves the block running has taken a configuration aligned to the chip rate. -/
theorem chipAligned_of_blockReset_run {α : Type} {num : Numerics α} {cfg : Cfg} {draws : Nat}
    (h : (blockReset num cfg draws).sys.mode = .run) : cfg.chipAligned = true := by
  by_contra hNot
  rw [blockReset_notAligned num draws hNot] at h
  cases h

/-- A property of the running block that every reset gives, every host's change keeps and every sample
taken under a legal configuration keeps, is kept by every step. -/
theorem step_whileRunning {P : Block NumVal → Prop}
    (hReset : ∀ cfg draws, cfgLegal cfg → P (blockWith Config.num cfg draws (codeTables Config.num cfg)))
    (hHost : ∀ b b', HostChange b b' → P b → P b')
    (hSample : ∀ x b, cfgLegal b.cfg → P b → P (takeSample Config.num x b))
    (s t : State) (h : whileRunning P s.toBlock) (hStep : step s = .next t) : whileRunning P t.toBlock := by
  cases hPort : s.port with
  | nil =>
    rw [step_idle hPort] at hStep
    cases hStep
    exact h
  | cons e rest =>
    cases e with
    | reset cfg =>
      rw [step_reset hPort] at hStep
      by_cases hType : cfg.inType = true
      · rw [portReset_inType rest s hType] at hStep
        cases hStep
        intro hRun
        have hAligned := chipAligned_of_blockReset_run hRun
        rw [blockReset_aligned Config.num s.draws hAligned]
        exact ⟨⟨hType, hAligned⟩, hReset cfg s.draws ⟨hType, hAligned⟩⟩
      · rw [portReset_not_inType rest s hType] at hStep
        cases hStep
    | command c =>
      obtain ⟨-, b, hChange, hBlock⟩ := step_command_next hPort hStep
      have hHeld : whileRunning P b := fun hRun => by
        obtain ⟨hLegal, hP⟩ := h (hChange.mode ▸ hRun)
        exact ⟨hChange.cfg ▸ hLegal, hHost _ b hChange hP⟩
      rcases hBlock with hBlock | ⟨x, hRun, hBlock⟩
      · rwa [hBlock]
      · obtain ⟨hLegal, hP⟩ := hHeld hRun
        rw [hBlock]
        exact fun _ => ⟨by rwa [takeSample_cfg], hSample x b hLegal hP⟩

theorem chipAligned_iff (cfg : Cfg) : cfg.chipAligned = true ↔ cfg.fsHz % 1023000 = 0 := by
  simp [Cfg.chipAligned, chipRate]

/-- A legal configuration has at least one sample to a chip, and so 1023 to a code period. -/
theorem codeLen_le_n {cfg : Cfg} (h : cfgLegal cfg) : codeLen ≤ cfg.n := by
  obtain ⟨hType, hAligned⟩ := h
  have hPos : 0 < cfg.fsHz := ((inType_iff cfg).mp hType).1
  have hDvd : chipRate ∣ cfg.fsHz := Nat.dvd_of_mod_eq_zero ((chipAligned_iff cfg).mp hAligned)
  have hSpc : 0 < cfg.spc := Nat.div_pos (Nat.le_of_dvd hPos hDvd) (by decide)
  exact Nat.le_mul_of_pos_right codeLen hSpc

theorem n_pos {cfg : Cfg} (h : cfgLegal cfg) : 0 < cfg.n :=
  (show 0 < codeLen by decide).trans_le (codeLen_le_n h)

theorem one_lt_captureLen {cfg : Cfg} (h : cfgLegal cfg) : 1 < cfg.captureLen := by
  obtain ⟨-, hEpochs, -⟩ := (inType_iff cfg).mp h.1
  calc 1 < codeLen := by decide
    _ ≤ cfg.n := codeLen_le_n h
    _ ≤ cfg.captureLen := Nat.le_mul_of_pos_left cfg.n hEpochs

/-! ### The sample clock (R342) -/

section SampleClock

variable {α : Type} (num : Numerics α)

theorem sampleClock_blockWith {cfg : Cfg} (draws : Nat) (cg : CodeTables α) (h : cfgLegal cfg) :
    SampleClock (blockWith num cfg draws cg) where
  fill_lt := n_pos h
  fill_eq := (Nat.zero_mod _).symm
  stamp := nofun
  stamp_aligned := Nat.zero_mod _

/-- The timestamp of the block a sample goes into is aligned: a first sample's index is, since the fill
follows the index. -/
theorem fedSample_stamp_aligned (x : Cx α) {b : Block α} (h : SampleClock b) :
    (fedSample x b).sys.blkT0 % b.cfg.n = 0 := by
  simp only [fedSample, assembleBlock]
  split_ifs with hFirst
  · rw [← h.fill_eq, hFirst]
  · exact h.stamp_aligned

/-- The next index, modulo the block's length, while the block is filling. -/
theorem succ_sidx_mod {b : Block α} (h : SampleClock b) :
    (b.sys.sidx + 1) % b.cfg.n = (b.sys.blkFill + 1) % b.cfg.n := by
  rw [h.fill_eq, Nat.mod_add_mod]

theorem sampleClock_fedSample (x : Cx α) {b : Block α} (h : SampleClock b)
    (hFull : b.sys.blkFill + 1 ≠ b.cfg.n) : SampleClock (fedSample x b) := by
  have hLt : b.sys.blkFill + 1 < b.cfg.n := lt_of_le_of_ne h.fill_lt hFull
  refine ⟨hLt, ?fillEq, fun _ => ?stamp, fedSample_stamp_aligned x h⟩
  case fillEq => exact (succ_sidx_mod h ▸ Nat.mod_eq_of_lt hLt).symm
  case stamp =>
    simp only [fedSample, assembleBlock]
    split_ifs with hFirst
    · rw [hFirst]
    · rw [← Nat.add_assoc, h.stamp (Nat.pos_of_ne_zero hFirst)]

theorem sampleClock_blockDone (x : Cx α) {b : Block α} (h : SampleClock b)
    (hFull : b.sys.blkFill + 1 = b.cfg.n) : SampleClock (blockDone num (fedSample x b)) := by
  have hIndex : (b.sys.sidx + 1) % b.cfg.n = 0 := by rw [succ_sidx_mod h, hFull, Nat.mod_self]
  constructor <;> simp only [blockDone_cfg, blockDone_sys]
  case fill_lt => exact (Nat.zero_le _).trans_lt h.fill_lt
  case fill_eq => exact hIndex.symm
  case stamp => exact fun hPos => absurd hPos (Nat.lt_irrefl 0)
  case stamp_aligned => exact fedSample_stamp_aligned x h

theorem sampleClock_takeSample (x : Cx α) {b : Block α} (h : SampleClock b) :
    SampleClock (takeSample num x b) := by
  rcases takeSample_cases num x b with ⟨hFull, hTaken⟩ | ⟨hFull, hTaken⟩ <;> rw [hTaken]
  · exact sampleClock_fedSample x h hFull
  · exact sampleClock_blockDone num x h hFull

theorem sampleClock_hostChange {b b' : Block α} (hChange : HostChange b b') (h : SampleClock b) :
    SampleClock b' := by
  obtain ⟨_, _, _, _, rfl⟩ := hChange
  exact { h with }

end SampleClock

/-- Settles O23: only a sample moves the clock, within its block or at the block's boundary. -/
theorem stepKeepsSampleClock : Obligations.StepKeepsSampleClock :=
  step_whileRunning
    (fun _ draws hLegal => sampleClock_blockWith Config.num draws _ hLegal)
    (fun _ _ hChange h => sampleClock_hostChange hChange h)
    (fun x _ _ h => sampleClock_takeSample Config.num x h)

/-! ### The acquisition engine, by state (R190 to R193) -/

section AcqFeed

variable {α : Type} {cfg : Cfg} {a : AcqEngine α} (x : Cx α)

theorem acqFeed_idle_expired (hState : a.state = .idle) (hTimer : cfg.trigSamples ≤ a.timer)
    (hLen : 1 < cfg.captureLen) : acqFeed cfg x a =
      { a with state := .collecting, buf := memWrite a.buf 0 x, fill := 1, timer := 1 } := by
  simp [acqFeed, acqTrigger, acqCapture, acqComplete, hState, hTimer, hLen.ne]

theorem acqFeed_idle_waiting (hState : a.state = .idle) (hTimer : a.timer < cfg.trigSamples) :
    acqFeed cfg x a = { a with timer := a.timer + 1 } := by
  simp [acqFeed, acqTrigger, acqCapture, acqComplete, hState, hTimer.not_ge]

theorem acqFeed_collecting (hState : a.state = .collecting) (hFill : a.fill + 1 ≠ cfg.captureLen) :
    acqFeed cfg x a =
      { a with buf := memWrite a.buf a.fill x, fill := a.fill + 1, timer := a.timer + 1 } := by
  simp [acqFeed, acqTrigger, acqCapture, acqComplete, hState, hFill]

theorem acqFeed_collecting_full (hState : a.state = .collecting) (hFill : a.fill + 1 = cfg.captureLen) :
    acqFeed cfg x a =
      { a with
        state := .searching, wait := 0
        buf := memWrite a.buf a.fill x, fill := a.fill + 1, timer := a.timer + 1 } := by
  simp [acqFeed, acqTrigger, acqCapture, acqComplete, hState, hFill]

theorem acqFeed_busy (hState : a.state = .searching ∨ a.state = .resultsReady) :
    acqFeed cfg x a = { a with timer := a.timer + 1 } := by
  rcases hState with hState | hState <;> simp [acqFeed, acqTrigger, acqCapture, acqComplete, hState]

end AcqFeed

/-- Settles O36, state by state. -/
theorem acquisitionFeedByState : Obligations.AcquisitionFeedByState :=
  fun _ _ x _ hLen =>
    ⟨rfl, fun hState hTimer => acqFeed_idle_expired x hState hTimer hLen,
      acqFeed_idle_waiting x, acqFeed_collecting x, acqFeed_collecting_full x, acqFeed_busy x⟩

/-! ### The acquisition engine's bounds (R192, R193, R196, R202) -/

section AcqBounds

variable {α : Type} (num : Numerics α) {cfg : Cfg} {a : AcqEngine α}

theorem acqBounds_acqReset (cfg : Cfg) : AcqBounds cfg (acqReset num cfg) where
  fill_le := Nat.zero_le _
  collecting := nofun
  consumed := nofun
  found_sat := nofun
  found_ascending := .nil

/-- The bounds speak of the state, the fill and the report alone. -/
theorem acqBounds_timer (h : AcqBounds cfg a) (timer : Nat) : AcqBounds cfg { a with timer := timer } :=
  { h with }

theorem acqBounds_wait (h : AcqBounds cfg a) (wait : Nat) : AcqBounds cfg { a with wait := wait } :=
  { h with }

theorem acqBounds_acqFeed (x : Cx α) (hLen : 1 < cfg.captureLen) (h : AcqBounds cfg a) :
    AcqBounds cfg (acqFeed cfg x a) := by
  cases hState : a.state with
  | idle =>
    rcases le_or_gt cfg.trigSamples a.timer with hTimer | hTimer
    · rw [acqFeed_idle_expired x hState hTimer hLen]
      exact { h with fill_le := hLen.le, collecting := fun _ => hLen, consumed := nofun }
    · rw [acqFeed_idle_waiting x hState hTimer]
      exact acqBounds_timer h _
  | collecting =>
    have hRoom : a.fill + 1 ≤ cfg.captureLen := h.collecting hState
    by_cases hFill : a.fill + 1 = cfg.captureLen
    · rw [acqFeed_collecting_full x hState hFill]
      exact { h with fill_le := hRoom, collecting := nofun, consumed := nofun }
    · rw [acqFeed_collecting x hState hFill]
      exact { h with fill_le := hRoom, collecting := fun _ => lt_of_le_of_ne hRoom hFill }
  | searching => rw [acqFeed_busy x (.inl hState)]; exact acqBounds_timer h _
  | resultsReady => exact absurd hState h.consumed

@[simp] theorem reportOne_acq (b : Block α) (x : Found α) : (reportOne num b x).acq = b.acq := by
  simp only [reportOne]
  split_ifs <;> rfl

@[simp] theorem reportAll_acq (xs : List (Found α)) (b : Block α) :
    (xs.foldl (reportOne num) b).acq = b.acq := by
  induction xs generalizing b with
  | nil => rfl
  | cons x xs ih => rw [List.foldl_cons, ih, reportOne_acq]

/-- The report leaves the engine idle and otherwise as it was (R202). -/
theorem acqReport_acq (b : Block α) : (acqReport num b).acq = { b.acq with state := .idle } := by
  simp [acqReport]

/-- A completed sweep, reported: its report is ascending and in range, and the engine is idle. -/
theorem acqBounds_acqReport_acqSweep {b : Block α} (h : AcqBounds cfg b.acq) :
    AcqBounds cfg (acqReport num (acqSweep num b)).acq := by
  rw [acqReport_acq]
  refine { h with collecting := nofun, consumed := nofun, found_sat := fun x hx => ?_, found_ascending := ?_ }
  · obtain ⟨hLow, hHigh, -⟩ := (mem_acqSweep_found num b x).mp hx
    exact ⟨hLow, hHigh⟩
  · exact foundFrom_ascending num 1 (sweepAll num b)

/-- What the poll does when no results wait: nothing unless a sweep is in flight; then the sweep and its
report, or one more boundary waited (R201, R202). -/
theorem acqPoll_cases {b : Block α} (h : b.acq.state ≠ .resultsReady) :
    (b.acq.state ≠ .searching ∧ acqPoll num b = b)
      ∨ (b.acq.state = .searching ∧ sweepComplete b = true
        ∧ acqPoll num b = acqReport num (acqSweep num { b with draws := drawsAfter b }))
      ∨ (b.acq.state = .searching ∧ sweepComplete b = false
        ∧ acqPoll num b
          = { b with draws := drawsAfter b, acq := { b.acq with wait := b.acq.wait + 1 } }) := by
  by_cases hSearch : b.acq.state = .searching
  · cases hDone : sweepComplete b with
    | true => exact .inr (.inl ⟨hSearch, rfl, by simp [acqPoll, pollSweep, hSearch, hDone, acqSweep]⟩)
    | false => exact .inr (.inr ⟨hSearch, rfl, by simp [acqPoll, pollSweep, hSearch, hDone]⟩)
  · exact .inl ⟨hSearch, by simp [acqPoll, hSearch, h]⟩

theorem acqBounds_acqPoll {b : Block α} (h : AcqBounds cfg b.acq) : AcqBounds cfg (acqPoll num b).acq := by
  rcases acqPoll_cases num h.consumed with ⟨-, hPoll⟩ | ⟨-, -, hPoll⟩ | ⟨-, -, hPoll⟩ <;> rw [hPoll]
  · exact h
  · exact acqBounds_acqReport_acqSweep num (b := { b with draws := drawsAfter b }) h
  · exact acqBounds_wait h _

theorem acqBounds_blockDone {b : Block α} (h : AcqBounds cfg b.acq) : AcqBounds cfg (blockDone num b).acq :=
  acqBounds_acqPoll num (b := onSlots livenessPoll (onSlots (deliver num b) b)) h

theorem acqBounds_takeSample (x : Cx α) {b : Block α} (hLegal : cfgLegal b.cfg) (h : AcqBounds b.cfg b.acq) :
    AcqBounds b.cfg (takeSample num x b).acq := by
  have hFed : AcqBounds b.cfg (fedSample x b).acq := acqBounds_acqFeed x (one_lt_captureLen hLegal) h
  rcases takeSample_cases num x b with ⟨-, hTaken⟩ | ⟨-, hTaken⟩ <;> rw [hTaken]
  · exact hFed
  · exact acqBounds_blockDone num hFed

end AcqBounds

/-- Settles O24: the capture stays within its buffer, and a poll leaves no results waiting. -/
theorem stepKeepsAcquisitionBounds : Obligations.StepKeepsAcquisitionBounds := by
  refine step_whileRunning (fun cfg draws _ => acqBounds_acqReset Config.num cfg) ?host ?sample
  case host =>
    rintro b _ ⟨_, _, _, _, rfl⟩ h
    exact h
  case sample =>
    intro x b hLegal h
    rw [takeSample_cfg]
    exact acqBounds_takeSample Config.num x hLegal h

/-! ### Offsets (R8, R176) -/

section Offsets

variable {α : Type} (num : Numerics α)

/-- The search answers an index it has passed. -/
theorem argmaxFrom_lt {k : Nat} (best : α) (j i : Nat) (xs : List α) (hj : j < k) (hk : i + xs.length ≤ k) :
    num.argmaxFrom best j i xs < k := by
  induction xs generalizing best j i with
  | nil => exact hj
  | cons x xs ih =>
    rw [List.length_cons] at hk
    rw [Numerics.argmaxFrom]
    split_ifs
    · exact ih x i (i + 1) (by omega) (by omega)
    · exact ih best j (i + 1) hj (by omega)

theorem argmax_lt_length {a : List α} (h : a ≠ []) : num.argmax a < a.length := by
  cases a with
  | nil => exact absurd rfl h
  | cons x xs => exact argmaxFrom_lt num x 0 1 xs (by simp) (by simp [Nat.add_comm])

theorem peakIndex_corr_lt {n : Nat} (hn : 0 < n) (spec y : List (Cx α)) :
    peakIndex num (corr num n spec y) < n := by
  have hLen : ((corr num n spec y).map num.mag).length = n := by simp
  have hSome : (corr num n spec y).map num.mag ≠ [] := List.length_pos_iff.mp (hLen.symm ▸ hn)
  simpa [peakIndex] using argmax_lt_length num hSome

/-- The signed offset of an index of the code period is in `(−N/2, N/2]`. -/
theorem signedOffset_bounds {n i : Nat} (h : i < n) :
    -(n : Int) < 2 * signedOffset n i ∧ 2 * signedOffset n i ≤ n := by
  unfold signedOffset
  split_ifs <;> omega

end Offsets

/-! ### A channel within its bounds, from one rule to a whole block (R32 to R38, R255)

The rules of one period speak of the channel before its next period starts, so the fill and the skip of its
buffer stand apart from the other bounds. A rule that loses the signal leaves `alive` clear, and nothing
more is asked of the channel. -/

/-- The bounds of `ChannelBounds` that name neither the period buffer nor the lock state, of a channel that
is active. -/
structure CounterBounds {α : Type} (cfg : Cfg) (c : Channel α) : Prop where
  active : c.active = true
  off_low : -(cfg.n : Int) < 2 * c.codeOff
  off_high : 2 * c.codeOff ≤ (cfg.n : Int)
  offValid_le : c.offValid ≤ offValidN
  offInvalid_lt : c.offInvalid < offInvalidN
  faN_lt : c.faN < faPeriods
  maN_le : c.maN ≤ faMaLen
  maPos_lt : c.maPos < faMaLen
  pllN_lt : c.pllN < pllBlock
  iqValid_le : c.iqValid ≤ pllValidN
  iqInvalid_lt : c.iqInvalid < iqInvalidN
  bitCnt_lt : c.bitCnt < bitPeriods
  bitSum_le : c.bitSum.natAbs ≤ c.bitCnt
  wbits_le : c.wbits ≤ wordBits
  sfBits_lt : c.sfBits < sfWords * wordBits

/-- With the bounds that depend on the lock state: all of `ChannelBounds` but the fill and the skip. -/
structure TrackBounds {α : Type} (cfg : Cfg) (c : Channel α) : Prop extends CounterBounds cfg c where
  not_lost : c.state ≠ .signalLost
  offValid_lt : c.state = .offsetAcquire → c.offValid < offValidN
  off_kept : c.state ≠ .offsetAcquire → offsetValid cfg.spc c.codeOff = true
  iqValid_lt : c.state = .pllAcquire → c.iqValid < pllValidN
  sfBits_ge : c.state = .subframeAcquire → wordBits ≤ c.sfBits

/-- The same of a channel that has left `OFFSET_ACQUIRE`, to which no rule returns. -/
structure LockedBounds {α : Type} (cfg : Cfg) (c : Channel α) : Prop extends TrackBounds cfg c where
  past_offset : c.state ≠ .offsetAcquire

/-- What a rule after `OFFSET_ACQUIRE` owes: if the channel it leaves is still alive, the bounds. -/
def LockedIfAlive {α : Type} (cfg : Cfg) (c : Channel α) : Prop :=
  c.alive = true → LockedBounds cfg c

/-- What every rule owes. -/
def TrackIfAlive {α : Type} (cfg : Cfg) (c : Channel α) : Prop :=
  c.alive = true → TrackBounds cfg c

/-- What every sample of a block owes. -/
def BoundedIfAlive {α : Type} (cfg : Cfg) (c : Channel α) : Prop :=
  c.alive = true → c.active = true ∧ ChannelBounds cfg c

section Channel

variable {α : Type} (num : Numerics α) {cfg : Cfg}

theorem ChannelBounds.track {c : Channel α} (hActive : c.active = true) (h : ChannelBounds cfg c) :
    TrackBounds cfg c :=
  { h with active := hActive }

theorem LockedIfAlive.track {c : Channel α} (h : LockedIfAlive cfg c) : TrackIfAlive cfg c :=
  fun hAlive => (h hAlive).toTrackBounds

theorem LockedBounds.codeOff_valid {c : Channel α} (h : LockedBounds cfg c) :
    offsetValid cfg.spc c.codeOff = true :=
  h.off_kept h.past_offset

/-- A step to another lock state with a valid offset: the entry actions reset the counters that depend on
the new state (R251, R252). -/
theorem goto_locked (s : Nat) {new : LockState} (cause : Cause) {c : Channel α} (hNew : new ≠ .offsetAcquire)
    (hValid : offsetValid cfg.spc c.codeOff = true) (h : CounterBounds cfg c)
    (hSubframe : new = .subframeAcquire → wordBits ≤ c.sfBits) :
    LockedIfAlive cfg (goto num s new cause c).ch := by
  intro hAlive
  cases new with
  | offsetAcquire => exact absurd rfl hNew
  | frequencyAcquire =>
    exact { h with
      faN_lt := Nat.succ_pos _, maN_le := Nat.zero_le _, maPos_lt := Nat.succ_pos _
      not_lost := nofun, offValid_lt := nofun, off_kept := fun _ => hValid, iqValid_lt := nofun
      sfBits_ge := nofun, past_offset := nofun }
  | pllAcquire =>
    exact { h with
      pllN_lt := Nat.succ_pos _, iqValid_le := Nat.zero_le _, iqInvalid_lt := Nat.succ_pos _
      not_lost := nofun, offValid_lt := nofun, off_kept := fun _ => hValid
      iqValid_lt := fun _ => Nat.succ_pos _, sfBits_ge := nofun, past_offset := nofun }
  | bitAcquire =>
    exact { h with
      bitCnt_lt := Nat.succ_pos _, bitSum_le := Nat.zero_le _
      not_lost := nofun, offValid_lt := nofun, off_kept := fun _ => hValid, iqValid_lt := nofun
      sfBits_ge := nofun, past_offset := nofun }
  | preambleAcquire =>
    exact { h with
      wbits_le := Nat.zero_le _
      not_lost := nofun, offValid_lt := nofun, off_kept := fun _ => hValid, iqValid_lt := nofun
      sfBits_ge := nofun, past_offset := nofun }
  | subframeAcquire =>
    exact { h with
      not_lost := nofun, offValid_lt := nofun, off_kept := fun _ => hValid, iqValid_lt := nofun
      sfBits_ge := fun _ => hSubframe rfl, past_offset := nofun }
  | signalLost => cases hAlive

/-- A signal lost owes nothing: the channel is not alive (R252). -/
theorem goto_signalLost_locked (s : Nat) (cause : Cause) (c : Channel α) :
    LockedIfAlive cfg (goto num s .signalLost cause c).ch := nofun

/-! #### Navigation -/

/-- A match seeds the subframe buffer with its first word (R306, R308). -/
theorem preambleMatch_locked (s : Nat) (v : NavWord) (inverted : Bool) {c : Channel α}
    (h : LockedBounds cfg c) : LockedIfAlive cfg (preambleMatch num s v inverted c).ch :=
  have hSeed : wordBits < sfWords * wordBits := by decide
  goto_locked num s _ nofun h.codeOff_valid { h with sfBits_lt := hSeed } fun _ => le_rfl

theorem preambleBit_locked (s : Nat) (bit : Bool) {c : Channel α} (h : LockedBounds cfg c) :
    LockedIfAlive cfg (preambleBit num s bit c).ch := by
  have hShift : LockedBounds cfg
      { c with wreg := shiftIn c.wreg bit, wbits := min (c.wbits + 1) wordBits } :=
    { h with wbits_le := Nat.min_le_right _ _ }
  simp only [preambleBit, preambleTest]
  split_ifs
  · exact preambleMatch_locked num s _ _ hShift
  · exact preambleMatch_locked num s _ _ hShift
  · exact fun _ => hShift
  · exact fun _ => hShift

@[simp] theorem keepSubframe_codeOff (s : Nat) (c : Channel α) :
    (keepSubframe s c).ch.codeOff = c.codeOff := by
  unfold keepSubframe
  split_ifs <;> rfl

theorem keepSubframe_counters (s : Nat) {c : Channel α} (h : CounterBounds cfg { c with sfBits := 0 }) :
    CounterBounds cfg { (keepSubframe s c).ch with sfBits := 0 } := by
  unfold keepSubframe
  split
  · exact { h with }
  · exact h

/-- An accepted subframe empties the subframe buffer and returns to `PREAMBLE_ACQUIRE` (R321). -/
theorem acceptSubframe_locked (s : Nat) {c : Channel α} (hValid : offsetValid cfg.spc c.codeOff = true)
    (h : CounterBounds cfg { c with sfBits := 0 }) : LockedIfAlive cfg (acceptSubframe num s c).ch :=
  goto_locked num s .subframeDone (c := { (keepSubframe s c).ch with sfBits := 0 }) nofun
    (by simpa using hValid) (keepSubframe_counters s h) nofun

theorem rejectSubframe_locked (s idx : Nat) (c : Channel α) :
    LockedIfAlive cfg (rejectSubframe num s idx c).ch :=
  goto_signalLost_locked num s .parity c

/-- A complete subframe is rejected, and the signal lost, or accepted. -/
theorem validateSubframe_locked (s : Nat) {c : Channel α} (hValid : offsetValid cfg.spc c.codeOff = true)
    (h : CounterBounds cfg { c with sfBits := 0 }) : LockedIfAlive cfg (validateSubframe num s c).ch := by
  simp only [validateSubframe]
  split
  · exact rejectSubframe_locked num s _ _
  · split_ifs
    · exact rejectSubframe_locked num s _ _
    · exact acceptSubframe_locked num s hValid { h with }

theorem subframeBit_locked (s : Nat) (bit : Bool) {c : Channel α} (h : LockedBounds cfg c) :
    LockedIfAlive cfg (subframeBit num s bit c).ch := by
  simp only [subframeBit]
  split_ifs with hFull
  · exact validateSubframe_locked num s h.codeOff_valid { h with sfBits_lt := Nat.succ_pos _ }
  · exact fun _ => { h with
      sfBits_lt := lt_of_le_of_ne h.sfBits_lt hFull
      sfBits_ge := fun hState => (h.sfBits_ge hState).trans (Nat.le_succ _) }

theorem chBit_locked (s : Nat) (bit : Bool) {c : Channel α} (h : LockedBounds cfg c) :
    LockedIfAlive cfg (chBit num s bit c).ch := by
  unfold chBit
  cases c.state with
  | preambleAcquire => exact preambleBit_locked num s bit h
  | subframeAcquire => exact subframeBit_locked num s bit h
  | offsetAcquire => exact fun _ => h
  | frequencyAcquire => exact fun _ => h
  | pllAcquire => exact fun _ => h
  | bitAcquire => exact fun _ => h
  | signalLost => exact fun _ => h

/-! #### The bit window and the phase checks -/

theorem natAbs_toInt (sg : Sign) : sg.toInt.natAbs = 1 := by cases sg <;> rfl

theorem bitStage_locked (s : Nat) (peak : Cx α) {c : Channel α} (h : LockedBounds cfg c) :
    LockedIfAlive cfg (bitStage num s peak c).ch := by
  have hTotal : (c.bitSum + (num.sgn peak.re).toInt).natAbs ≤ c.bitCnt + 1 :=
    calc (c.bitSum + (num.sgn peak.re).toInt).natAbs
        ≤ c.bitSum.natAbs + (num.sgn peak.re).toInt.natAbs := Int.natAbs_add_le _ _
      _ ≤ c.bitCnt + 1 := by rw [natAbs_toInt]; exact Nat.succ_le_succ h.bitSum_le
  have hEmpty : LockedBounds cfg { c with bitSum := 0, bitCnt := 0 } :=
    { h with bitCnt_lt := Nat.succ_pos _, bitSum_le := Nat.zero_le _ }
  simp only [bitStage]
  split_ifs with hWindow hZero
  · exact goto_locked num s .bitsync nofun hEmpty.codeOff_valid hEmpty.toCounterBounds nofun
  · exact chBit_locked num s _ hEmpty
  · exact fun _ => { h with bitCnt_lt := lt_of_le_of_ne h.bitCnt_lt hWindow, bitSum_le := hTotal }

/-- The first change of sign starts a bit window of one period (R270). -/
theorem bitSyncStage_locked (s : Nat) (peak : Cx α) {c : Channel α} (h : LockedBounds cfg c) :
    LockedIfAlive cfg (bitSyncStage num s peak c).ch := by
  have hOne : 1 < bitPeriods := by decide
  simp only [bitSyncStage]
  split_ifs
  · exact fun _ => { h with }
  · intro hAlive
    have hGoto := goto_locked num s (new := .preambleAcquire) .advance
      (c := { c with bsPrev := num.sgn peak.re }) nofun h.codeOff_valid { h with } nofun hAlive
    exact { hGoto with bitCnt_lt := hOne, bitSum_le := (natAbs_toInt _).le }
  · exact fun _ => { h with }

theorem iqCount_locked (s : Nat) (ok : Bool) {c : Channel α} (h : LockedBounds cfg c) :
    LockedIfAlive cfg (iqCount num s ok c).ch := by
  simp only [iqCount]
  split_ifs with hOk hTenth
  · exact fun _ => { h with iqInvalid_lt := Nat.succ_pos _ }
  · exact goto_signalLost_locked num s _ _
  · exact fun _ => { h with iqInvalid_lt := lt_of_le_of_ne h.iqInvalid_lt hTenth }

theorem pllCount_locked (s : Nat) (ok : Bool) {c : Channel α} (hState : c.state = .pllAcquire)
    (h : LockedBounds cfg c) : LockedIfAlive cfg (pllCount num s ok c).ch := by
  have hLt := h.iqValid_lt hState
  simp only [pllCount]
  split_ifs with hOk hEnough
  · exact goto_locked num s _ nofun h.codeOff_valid { h with iqValid_le := hLt } nofun
  · exact fun _ => { h with iqValid_le := hLt, iqValid_lt := fun _ => lt_of_le_of_ne hLt hEnough }
  · exact fun _ => { h with iqValid_le := Nat.zero_le _, iqValid_lt := fun _ => Nat.succ_pos _ }

/-- A rule that runs only while the channel is alive, after another. -/
theorem andThen_ifAlive_locked {t : Tracked α} {f : Channel α → Tracked α} (ht : LockedIfAlive cfg t.ch)
    (hf : ∀ c, LockedBounds cfg c → LockedIfAlive cfg (f c).ch) :
    LockedIfAlive cfg (t.andThen (ifAlive f)).ch := by
  simp only [andThen_ch, ifAlive]
  split_ifs with hAlive
  · exact hf t.ch (ht hAlive)
  · exact ht

/-! #### The carrier loops -/

theorem trkPll_locked (peak : Cx α) {c : Channel α} (h : LockedBounds cfg c) :
    LockedBounds cfg (trkPll num cfg peak c) := by
  simp only [trkPll, pllPush]
  split_ifs with hFull
  · exact { h with pllN_lt := Nat.succ_pos _ }
  · exact { h with pllN_lt := lt_of_le_of_ne h.pllN_lt hFull }

@[simp] theorem trkPll_state (peak : Cx α) (c : Channel α) : (trkPll num cfg peak c).state = c.state := by
  simp only [trkPll, pllPush]
  split_ifs <;> rfl

/-- The 20th delta is taken out of the accumulator, and its estimate into the ring of five (R261, R262). -/
theorem estimate_locked (s : Nat) {c : Channel α} (h : LockedBounds cfg { c with faN := 0 }) :
    LockedIfAlive cfg (estimate num cfg s c).ch := by
  have hPos : (c.maPos + 1) % faMaLen < faMaLen := Nat.mod_lt _ (Nat.succ_pos _)
  simp only [estimate]
  split_ifs
  · exact goto_locked num s _ nofun h.codeOff_valid
      { h with maN_le := Nat.min_le_right _ _, maPos_lt := hPos } nofun
  · exact fun _ => { h with maN_le := Nat.min_le_right _ _, maPos_lt := hPos }

theorem frequencyDelta_locked (s : Nat) (delta : α) {c : Channel α} (h : LockedBounds cfg c) :
    LockedIfAlive cfg (frequencyDelta num cfg s delta c).ch := by
  have hEmpty : 0 < faPeriods := by decide
  simp only [frequencyDelta]
  split_ifs with hSmall hFull
  · exact estimate_locked num s { h with faN_lt := hEmpty }
  · exact fun _ => { h with faN_lt := lt_of_le_of_ne h.faN_lt hFull }
  · exact fun _ => { h with faN_lt := hEmpty }

theorem frequencyStage_locked (s : Nat) (peak : Cx α) {c : Channel α} (h : LockedBounds cfg c) :
    LockedIfAlive cfg (frequencyStage num cfg s peak c).ch := by
  simp only [frequencyStage]
  split_ifs
  · exact frequencyDelta_locked num s _ { h with }
  · exact fun _ => { h with }

/-! #### The lock state machine -/

theorem validPeriod_locked (s : Nat) (peak : Cx α) {c : Channel α} (h : LockedBounds cfg c) :
    LockedIfAlive cfg (validPeriod num cfg s peak c).ch := by
  have hPll := trkPll_locked num peak h
  have hChecked := iqCount_locked num s (iqOk num peak) hPll
  unfold validPeriod
  cases hState : c.state with
  | frequencyAcquire => exact frequencyStage_locked num s peak h
  | pllAcquire => exact pllCount_locked num s _ (by simpa using hState) hPll
  | bitAcquire => exact andThen_ifAlive_locked hChecked fun _ => bitSyncStage_locked num s peak
  | preambleAcquire => exact andThen_ifAlive_locked hChecked fun _ => bitStage_locked num s peak
  | subframeAcquire => exact andThen_ifAlive_locked hChecked fun _ => bitStage_locked num s peak
  | offsetAcquire => exact fun _ => h
  | signalLost => exact fun _ => h

/-- An invalid offset is counted, and zeroed while the signal is not lost (R254, R255). -/
theorem offsetInvalidLater_locked (s : Nat) {c : Channel α} (h : LockedBounds cfg { c with codeOff := 0 }) :
    LockedIfAlive cfg (offsetInvalidLater num s c).ch := by
  simp only [offsetInvalidLater]
  split_ifs with hTenth
  · exact goto_signalLost_locked num s _ _
  · exact fun _ => { h with offInvalid_lt := lt_of_le_of_ne h.offInvalid_lt hTenth }

/-- In `OFFSET_ACQUIRE` the tenth valid offset in a row advances, the tenth invalid one loses the signal
(R253). -/
theorem offsetStage_track (s : Nat) {ok : Bool} {c : Channel α} (hState : c.state = .offsetAcquire)
    (hOk : ok = offsetValid cfg.spc c.codeOff) (h : TrackBounds cfg c) :
    TrackIfAlive cfg (offsetStage num s ok c).ch := by
  have hLt := h.offValid_lt hState
  simp only [offsetStage]
  split_ifs with hValid hTenth hTenth
  · exact LockedIfAlive.track (goto_locked num s .advance nofun (hOk ▸ hValid)
      { h with offValid_le := hLt, offInvalid_lt := Nat.succ_pos _ } nofun)
  · exact fun _ => { h with
      offValid_le := hLt, offValid_lt := fun _ => lt_of_le_of_ne hLt hTenth, offInvalid_lt := Nat.succ_pos _ }
  · exact LockedIfAlive.track (goto_signalLost_locked num s _ _)
  · exact fun _ => { h with
      offValid_le := Nat.zero_le _, offValid_lt := fun _ => Nat.succ_pos _
      offInvalid_lt := lt_of_le_of_ne h.offInvalid_lt hTenth }

/-- One step of the lock state machine on a newly measured offset, whose validity it is given (R250). -/
theorem trkStep_track (s : Nat) (peak : Cx α) {c : Channel α} {o : Int} (hLow : -(cfg.n : Int) < 2 * o)
    (hHigh : 2 * o ≤ cfg.n) (h : TrackBounds cfg c) :
    TrackIfAlive cfg (trkStep num cfg s (offsetValid cfg.spc o) peak { c with codeOff := o }).ch := by
  have hLocked (hPast : c.state ≠ .offsetAcquire) (o' : Int) (hLow' : -(cfg.n : Int) < 2 * o')
      (hHigh' : 2 * o' ≤ cfg.n) (hValid : offsetValid cfg.spc o' = true) :
      LockedBounds cfg { c with codeOff := o' } :=
    { h with off_low := hLow', off_high := hHigh', off_kept := fun _ => hValid, past_offset := hPast }
  unfold trkStep
  split_ifs with hFirst hLost hOk
  · exact offsetStage_track num s hFirst rfl
      { h with off_low := hLow, off_high := hHigh, off_kept := fun hPast => absurd hFirst hPast }
  · exact absurd hLost h.not_lost
  · have hValid := hLocked hFirst o hLow hHigh hOk
    exact LockedIfAlive.track
      (validPeriod_locked num s peak { hValid with offInvalid_lt := Nat.succ_pos _ })
  · have hZero : LockedBounds cfg { c with codeOff := 0 } :=
      hLocked hFirst 0 (by omega) (by omega) (by simp [offsetValid])
    exact LockedIfAlive.track (offsetInvalidLater_locked num s hZero)

/-! #### Periods, samples and blocks -/

/-- The start of a new period puts fill and skip within their bounds (R224). -/
theorem channelBounds_startPeriod {c : Channel α} (h : TrackBounds cfg c) :
    ChannelBounds cfg (startPeriod cfg c) := by
  have hLow := h.off_low
  have hHigh := h.off_high
  unfold startPeriod
  split_ifs with hAhead hNone
  · exact { h with
      fill_lt := show 0 < cfg.n by omega, skip_le := show 2 * c.codeOff.natAbs ≤ cfg.n by omega }
  · exact { h with fill_lt := show 0 < cfg.n by omega, skip_le := Nat.zero_le _ }
  · exact { h with fill_lt := show c.codeOff.natAbs < cfg.n by omega, skip_le := Nat.zero_le _ }

@[simp] theorem startPeriod_active (c : Channel α) : (startPeriod cfg c).active = c.active := by
  unfold startPeriod
  split_ifs <;> rfl

theorem chPeriod_bounded (hn : 0 < cfg.n) (spec : List (Cx α)) (s : Nat) {c : Channel α}
    (h : TrackBounds cfg c) : BoundedIfAlive cfg (chPeriod num cfg spec s c).ch := by
  obtain ⟨hLow, hHigh⟩ := signedOffset_bounds (peakIndex_corr_lt num hn spec c.buf)
  have hStep := trkStep_track num s (peakValue num (corr num cfg.n spec c.buf)) hLow hHigh h
  simp only [chPeriod, andThen_ch, quiet_ch]
  split_ifs with hAlive
  · have hTrack := hStep hAlive
    exact fun _ => ⟨by simpa using hTrack.active, channelBounds_startPeriod hTrack⟩
  · exact fun h => absurd h hAlive

/-- One delivered sample is skipped, stored, or the last of its period (R221). -/
theorem chFeed_bounded (hn : 0 < cfg.n) (spec : List (Cx α)) (s : Nat) (x : Cx α) (c : Channel α)
    (h : BoundedIfAlive cfg c) : BoundedIfAlive cfg (chFeed num cfg spec s x c).ch := by
  by_cases hAlive : c.alive = true
  · obtain ⟨hActive, hBounds⟩ := h hAlive
    have hSkipped : 2 * (c.skip - 1) ≤ cfg.n :=
      (Nat.mul_le_mul_left 2 (Nat.sub_le _ _)).trans hBounds.skip_le
    simp only [chFeed, if_pos hAlive]
    split_ifs with hSkip hFull
    · exact fun _ => ⟨hActive, { hBounds with skip_le := hSkipped }⟩
    · exact chPeriod_bounded num hn spec s { hBounds.track hActive with }
    · exact fun _ => ⟨hActive, { hBounds with fill_lt := lt_of_le_of_ne hBounds.fill_lt hFull }⟩
  · rw [chFeed, if_neg hAlive]
    exact h

theorem deliver_bounded {b : Block α} (hn : 0 < b.cfg.n) (s : Nat) (c : Channel α)
    (h : BoundedIfAlive b.cfg c) : BoundedIfAlive b.cfg (deliver num b s c).ch := by
  unfold deliver
  split_ifs
  · exact feedAll_keeps (chFeed_bounded num hn _ s) _ c h
  · exact h

/-! #### The slots of the block -/

/-- The liveness poll leaves a slot active exactly when its channel is alive (R349). -/
theorem livenessPoll_slot (s : Nat) {c : Channel α} (h : BoundedIfAlive cfg c) :
    (livenessPoll s c).ch.active = (livenessPoll s c).ch.alive
      ∧ ((livenessPoll s c).ch.active = true → ChannelBounds cfg (livenessPoll s c).ch) := by
  unfold livenessPoll
  cases hAlive : c.alive with
  | true =>
    obtain ⟨hActive, hBounds⟩ := h hAlive
    simpa [hActive, hAlive] using hBounds
  | false => cases hActive : c.active <;> simp [hActive, hAlive]

theorem ChannelsBounded.boundedIfAlive {b : Block α} (h : ChannelsBounded b) {c : Channel α} (hc : c ∈ b.ch) :
    BoundedIfAlive b.cfg c := by
  obtain ⟨hSame, hBounds⟩ := h c hc
  exact fun hAlive => ⟨hSame.trans hAlive, hBounds (hSame.trans hAlive)⟩

theorem channelsBounded_delivered {b : Block α} (hn : 0 < b.cfg.n) (h : ChannelsBounded b) :
    ChannelsBounded (onSlots livenessPoll (onSlots (deliver num b) b)) :=
  forSlots_all (fun s _ => livenessPoll_slot s) 1 _
    (forSlots_all (deliver_bounded num hn) 1 b.ch fun _ hc => h.boundedIfAlive hc)

/-- A promoted channel holds the creation values, which are within the bounds (R203). -/
theorem channelBounds_channelPromoted (hn : 0 < cfg.n) (f : α) :
    ChannelBounds cfg (channelPromoted num cfg f) := by
  constructor <;> simp [channelPromoted, channelNew, hn, offValidN, offInvalidN, faPeriods, faMaLen, pllBlock,
    iqInvalidN, bitPeriods, sfWords, wordBits]

theorem channelsBounded_acqPromote {b : Block α} (hn : 0 < b.cfg.n) (s : Nat) (f : α) (h : ChannelsBounded b) :
    ChannelsBounded (acqPromote num s f b) := by
  intro c hc
  rcases List.mem_or_eq_of_mem_set hc with hOld | rfl
  · exact h c hOld
  · exact ⟨rfl, fun _ => channelBounds_channelPromoted num hn f⟩

end Channel

section Slots

variable {α : Type} (num : Numerics α) {b : Block α}

@[simp] theorem reportOne_cfg (b : Block α) (x : Found α) : (reportOne num b x).cfg = b.cfg := by
  obtain ⟨_, _, _, _, h⟩ := boundaryChange_reportOne num b x
  rw [h]

theorem channelsBounded_reportOne (hn : 0 < b.cfg.n) (x : Found α) (h : ChannelsBounded b) :
    ChannelsBounded (reportOne num b x) := by
  simp only [reportOne]
  split_ifs
  · exact channelsBounded_acqPromote num (b := emit _ b) hn x.sat x.freq h
  · exact h

theorem channelsBounded_reportAll (xs : List (Found α)) {b : Block α} (hn : 0 < b.cfg.n)
    (h : ChannelsBounded b) : ChannelsBounded (xs.foldl (reportOne num) b) := by
  induction xs generalizing b with
  | nil => exact h
  | cons x xs ih =>
    exact ih (by rwa [reportOne_cfg]) (channelsBounded_reportOne num hn x h)

theorem channelsBounded_acqReport (hn : 0 < b.cfg.n) (h : ChannelsBounded b) :
    ChannelsBounded (acqReport num b) :=
  channelsBounded_reportAll num b.acq.found (b := emit (.acqDone b.acq.found.length) b) hn h

theorem channelsBounded_pollSweep (h : ChannelsBounded b) : ChannelsBounded (pollSweep num b) := by
  simp only [pollSweep]
  split_ifs <;> exact h

theorem channelsBounded_acqPoll (hn : 0 < b.cfg.n) (h : ChannelsBounded b) :
    ChannelsBounded (acqPoll num b) := by
  have hPolled : 0 < (pollSweep num b).cfg.n := by
    obtain ⟨_, _, _, _, hEq⟩ := boundaryChange_pollSweep num b
    rwa [hEq]
  simp only [acqPoll]
  split_ifs
  · exact channelsBounded_acqReport num hPolled (channelsBounded_pollSweep num h)
  · exact channelsBounded_pollSweep num h
  · exact channelsBounded_acqReport num hn h
  · exact h

theorem channelsBounded_blockDone (hn : 0 < b.cfg.n) (h : ChannelsBounded b) :
    ChannelsBounded (blockDone num b) :=
  channelsBounded_acqPoll num (b := onSlots livenessPoll (onSlots (deliver num b) b)) hn
    (channelsBounded_delivered num hn h)

theorem channelsBounded_takeSample (x : Cx α) (hn : 0 < b.cfg.n) (h : ChannelsBounded b) :
    ChannelsBounded (takeSample num x b) := by
  have hFed : ChannelsBounded (fedSample x b) := h
  rcases takeSample_cases num x b with ⟨-, hTaken⟩ | ⟨-, hTaken⟩ <;> rw [hTaken]
  · exact hFed
  · exact channelsBounded_blockDone num hn hFed

/-- After reset every slot is inactive and not alive. -/
theorem channelsBounded_blockWith (cfg : Cfg) (draws : Nat) (cg : CodeTables α) :
    ChannelsBounded (blockWith num cfg draws cg) := by
  intro c hc
  rw [List.eq_of_mem_replicate hc]
  exact ⟨rfl, nofun⟩

end Slots

/-- Settles O25: each rule of a period keeps the bounds of a channel it does not lose, a period starts with
its buffer's fill and skip within theirs, and the liveness poll removes what is lost. -/
theorem stepKeepsChannelsBounded : Obligations.StepKeepsChannelsBounded := by
  refine step_whileRunning (fun cfg draws _ => channelsBounded_blockWith Config.num cfg draws _) ?host ?sample
  case host =>
    rintro b _ ⟨_, _, _, _, rfl⟩ h
    exact h
  case sample => exact fun x b hLegal h => channelsBounded_takeSample Config.num x (n_pos hLegal) h

/-! ### The reset state (R43) -/

/-- The configuration of `State.reset` is one of this block. -/
theorem cfgLegal_config : cfgLegal Config.cfg := by
  constructor
  · rw [inType_iff]
    exact ⟨by decide, Nat.succ_pos _, Nat.succ_pos _, Nat.succ_pos _, Nat.dvd_mul_right _ _, by decide⟩
  · decide

/-- Settles O26: the reset state is that of a legal configuration, so it runs. -/
theorem invariantsHoldAtReset : Obligations.InvariantsHoldAtReset := by
  have hReset : State.reset.toBlock =
      blockWith Config.num Config.cfg 0 (codeTables Config.num Config.cfg) :=
    blockReset_aligned Config.num 0 cfgLegal_config.2
  refine ⟨reset_wf, ?_⟩
  rw [hReset]
  exact ⟨fun _ => ⟨cfgLegal_config, sampleClock_blockWith Config.num 0 _ cfgLegal_config⟩,
    fun _ => ⟨cfgLegal_config, acqBounds_acqReset Config.num Config.cfg⟩,
    fun _ => ⟨cfgLegal_config, channelsBounded_blockWith Config.num Config.cfg 0 _⟩, rfl⟩

/-- `TRIG_SAMPLES` is the ceiling of R3; at denominator 0, which is no cadence, both sides are 0. -/
theorem trigSamples_eq_ceil (cfg : Cfg) :
    (cfg.trigSamples : Int) = ⌈(cfg.secNum : ℚ) / cfg.secDen * cfg.fsHz⌉ := by
  have hNonneg : (0 : ℚ) ≤ (cfg.secNum : ℚ) / cfg.secDen * cfg.fsHz := by positivity
  rw [← Int.natCast_ceil_eq_ceil hNonneg, Nat.cast_inj]
  rcases Nat.eq_zero_or_pos cfg.secDen with hDen | hDen
  · simp [Cfg.trigSamples, hDen]
  · refine eq_of_forall_ge_iff fun k => ?_
    have hDenQ : (0 : ℚ) < cfg.secDen := by exact_mod_cast hDen
    have hCeil : cfg.trigSamples = (cfg.secNum * cfg.fsHz) ⌈/⌉ cfg.secDen := by
      rw [Nat.ceilDiv_eq_add_pred_div, Nat.add_sub_assoc hDen]; rfl
    rw [hCeil, ceilDiv_le_iff_le_mul hDen, Nat.ceil_le, div_mul_eq_mul_div, div_le_iff₀ hDenQ,
      mul_comm (k : ℚ)]
    exact_mod_cast Iff.rfl

section ResetTables

variable {α : Type} (num : Numerics α) (cfg : Cfg) (draws : Nat)

/-- Satellite `s`'s entry of a table built for satellites 1 to 32. -/
theorem getD_satellites {β : Type} (f : Nat → β) (d : β) {s : Nat} (hLow : 1 ≤ s) (hHigh : s ≤ 32) :
    ((List.range nSat).map fun i => f (i + 1)).getD (s - 1) d = f s := by
  have hLt : s - 1 < nSat := by unfold nSat; omega
  simp [List.getD_eq_getElem?_getD, hLt, Nat.sub_add_cancel hLow]

theorem codeOf_blockWith {s : Nat} (hLow : 1 ≤ s) (hHigh : s ≤ 32) :
    codeOf (blockWith num cfg draws (codeTables num cfg)) s = (goldGen s).1 :=
  getD_satellites (fun s => (goldGen s).1) [] hLow hHigh

theorem spectrumOf_blockWith {s : Nat} (hLow : 1 ≤ s) (hHigh : s ≤ 32) :
    spectrumOf (blockWith num cfg draws (codeTables num cfg)) s = codeSpectrum num cfg (goldGen s).1 :=
  getD_satellites (fun s => codeSpectrum num cfg (goldGen s).1) [] hLow hHigh

end ResetTables

/-- Settles O5: the fields by the reset values of R43, and ConfigFatal on the other side. -/
theorem resetLeavesRuleValues : Obligations.ResetLeavesRuleValues := by
  intro α num cfg draws
  refine ⟨fun hAligned => ?run, fun hNot => ?fatal⟩
  case run =>
    rw [blockReset_aligned num draws ((chipAligned_iff cfg).mpr hAligned)]
    refine ⟨rfl, rfl, rfl, rfl, rfl, rfl, rfl, rfl, rfl, rfl, rfl, rfl, rfl, rfl, rfl, ?tables, rfl,
      trigSamples_eq_ceil cfg, rfl, rfl, rfl, rfl, rfl, rfl, List.length_replicate, ?slots, rfl⟩
    case tables =>
      exact fun s hLow hHigh =>
        ⟨codeOf_blockWith num cfg draws hLow hHigh, spectrumOf_blockWith num cfg draws hLow hHigh⟩
    case slots =>
      intro c hc
      rw [List.eq_of_mem_replicate hc]
      exact ⟨rfl, rfl, rfl⟩
  case fatal =>
    rw [blockReset_notAligned num draws ((chipAligned_iff cfg).not.mpr hNot)]
    exact ⟨rfl, rfl⟩

/-! ### Conditions and missing operands (R20, R96) -/

/-- A word that no row of R92 matches decodes to nothing. -/
theorem decode_of_unmatched {w : Word} (h : ∀ r ∈ opcodeRows, w &&& r.mask ≠ r.value) :
    decode w = .error (rejectOf w) := by
  have hNone : opcodeRows.find? (fun r => r.selects w) = none :=
    List.find?_eq_none.mpr fun r hr => by simpa [OpcodeRow.selects] using h r hr
  rw [decode, hNone]

/-- IllegalCommand on the machine (R96). -/
theorem onBlock_illegalCommand {k : Block NumVal → BlockOutcome NumVal} {s : State}
    (h : k s.toBlock = .next (raise .illegalCommand s.toBlock)) : onBlock k s = .next (afterIllegalCommand s) :=
  onBlock_of_next h

theorem whenLegal_illegal {α : Type} {ok : Bool} {k : Block α → BlockOutcome α} {b : Block α}
    (h : ok = false) : whenLegal ok k b = .next (raise .illegalCommand b) := by
  simp [whenLegal, h]

theorem acceptCommand_mode (c : Command NumVal) (rest : List (PortEvent NumVal)) (s : State) :
    (acceptCommand c rest s).sys.mode = s.sys.mode :=
  (hostChange_acceptCommand c rest s).mode

/-- A command whose "legal when" is false (R92, R96). -/
theorem exec_notWellFormed {i : Instr} {s : State} (hRun : s.sys.mode = .run)
    (h : i.wellFormed s.cfg.n = false) : exec i s = .next (afterIllegalCommand s) := by
  rw [exec_eq_performOver]
  refine onBlock_illegalCommand ?_
  cases i with
  | cgChip sat idx => exact (whenRunning_run hRun).trans (whenLegal_illegal h)
  | cgSpec sat bin => exact (whenRunning_run hRun).trans (whenLegal_illegal h)
  | chStat sat => exact (whenRunning_run hRun).trans (whenLegal_illegal h)
  | _ => cases h

/-- Settles O6: both ways to an illegal command raise IllegalCommand and do no more. -/
theorem illegalCommandOnlyFlags : Obligations.IllegalCommandOnlyFlags := by
  refine ⟨fun s c rest hRun hPort hRows => ?word, fun s i hRun h => exec_notWellFormed hRun h, fun s => rfl⟩
  case word =>
    rw [step_rejected hPort (decode_of_unmatched hRows)]
    exact onBlock_illegalCommand (whenRunning_run ((acceptCommand_mode c rest s).trans hRun))

theorem onBlock_of_refused {f : Block NumVal → BlockOutcome NumVal} {s : State} {r : Refusal}
    (h : f s.toBlock = .refused r) : onBlock f s = .refused r := by
  simp [onBlock, h]

theorem withOpa_missing {α : Type} {k : α → Block α → BlockOutcome α} {b : Block α}
    (h : b.cmd.opa = none) : withOpa k b = .refused (.operandMissing .opa) := by
  simp [withOpa, h]

theorem withOperands_opa_missing {α : Type} {k : α → α → Block α → BlockOutcome α} {b : Block α}
    (h : b.cmd.opa = none) : withOperands k b = .refused (.operandMissing .opa) := by
  simp [withOperands, h]

theorem withOperands_opb_missing {α : Type} {k : α → α → Block α → BlockOutcome α} {b : Block α} {x : α}
    (hx : b.cmd.opa = some x) (h : b.cmd.opb = none) :
    withOperands k b = .refused (.operandMissing .opb) := by
  simp [withOperands, hx, h]

/-- Settles O8: the operand is read, and refused, before the command's own effect. -/
theorem missingOperandRefused : Obligations.MissingOperandRefused := by
  intro s hRun
  have hRefused {k : Block NumVal → BlockOutcome NumVal} {r : Refusal} (h : k s.toBlock = .refused r) :
      onBlock (whenRunning k) s = .refused r :=
    onBlock_of_refused ((whenRunning_run hRun).trans h)
  exact ⟨fun h => ⟨hRefused (withOpa_missing h), hRefused (withOpa_missing h), hRefused (withOpa_missing h),
      hRefused (withOperands_opa_missing h)⟩,
    fun x hx h => hRefused (withOperands_opb_missing hx h)⟩

/-! ### The report of a sweep and its promotions (R202, R203) -/

section Promotion

variable {α : Type} (num : Numerics α)

theorem channelAt_of_getElem? {b : Block α} {s : Nat} {c : Channel α} (h : b.ch[s - 1]? = some c) :
    channelAt num b s = c := by
  simp [channelAt, List.getD_eq_getElem?_getD, h]

/-- The report of one satellite touches no slot but its own (R202). -/
theorem reportOne_ch_other (b : Block α) (x : Found α) {i : Nat} (h : x.sat - 1 ≠ i) :
    (reportOne num b x).ch[i]? = b.ch[i]? := by
  simp only [reportOne]
  split_ifs
  · exact List.getElem?_set_ne h
  · rfl

/-- An active slot is not promoted (R202). -/
theorem reportOne_ch_active {b : Block α} (x : Found α) {i : Nat} {c : Channel α} (hc : b.ch[i]? = some c)
    (hActive : c.active = true) : (reportOne num b x).ch[i]? = some c := by
  by_cases hSlot : x.sat - 1 = i
  · subst hSlot
    simp [reportOne, channelAt_of_getElem? num hc, hActive, hc]
  · rw [reportOne_ch_other num b x hSlot, hc]

/-- An inactive slot of a reported satellite is promoted (R203). -/
theorem reportOne_ch_inactive {b : Block α} {x : Found α} (hSlot : x.sat - 1 < b.ch.length)
    (hInactive : (channelAt num b x.sat).active = false) :
    (reportOne num b x).ch[x.sat - 1]? = some (channelPromoted num b.cfg x.freq) := by
  simp [reportOne, acqPromote, hInactive, hSlot]

theorem reportAll_ch_active (xs : List (Found α)) {b : Block α} {i : Nat} {c : Channel α}
    (hc : b.ch[i]? = some c) (hActive : c.active = true) :
    (xs.foldl (reportOne num) b).ch[i]? = some c := by
  induction xs generalizing b with
  | nil => exact hc
  | cons x xs ih => exact ih (reportOne_ch_active num x hc hActive)

theorem reportAll_ch_other {xs : List (Found α)} (b : Block α) {i : Nat} (h : ∀ x ∈ xs, x.sat - 1 ≠ i) :
    (xs.foldl (reportOne num) b).ch[i]? = b.ch[i]? := by
  induction xs generalizing b with
  | nil => rfl
  | cons x xs ih =>
    obtain ⟨hx, hxs⟩ := List.forall_mem_cons.mp h
    exact (ih _ hxs).trans (reportOne_ch_other num b x hx)

@[simp] theorem reportOne_ch_length (b : Block α) (x : Found α) :
    (reportOne num b x).ch.length = b.ch.length := by
  simp only [reportOne]
  split_ifs
  · exact List.length_set
  · rfl

/-- In an ascending report a satellite's slot is still as it was when its turn comes, and is active, and so
left alone, after it. -/
theorem reportAll_ch_promoted {xs : List (Found α)} {b : Block α} {x : Found α} (hx : x ∈ xs)
    (hSats : ∀ y ∈ xs, 1 ≤ y.sat ∧ y.sat ≤ b.ch.length) (hAscending : xs.Pairwise fun x y => x.sat < y.sat)
    (hInactive : (channelAt num b x.sat).active = false) :
    (xs.foldl (reportOne num) b).ch[x.sat - 1]? = some (channelPromoted num b.cfg x.freq) := by
  induction xs generalizing b with
  | nil => cases hx
  | cons y ys ih =>
    obtain ⟨⟨hLow, hHigh⟩, hRest⟩ := List.forall_mem_cons.mp hSats
    obtain ⟨hBelow, hTail⟩ := List.pairwise_cons.mp hAscending
    rcases List.mem_cons.mp hx with rfl | hLater
    · have hSlot : x.sat - 1 < b.ch.length := by omega
      exact reportAll_ch_active num ys (reportOne_ch_inactive num hSlot hInactive) rfl
    · have hKept : (reportOne num b y).ch[x.sat - 1]? = b.ch[x.sat - 1]? := by
        have hLt := hBelow x hLater
        exact reportOne_ch_other num b y (by omega)
      have hSame : channelAt num (reportOne num b y) x.sat = channelAt num b x.sat := by
        simp only [channelAt, List.getD_eq_getElem?_getD, hKept, reportOne_cfg]
      have hStep := ih (b := reportOne num b y) hLater (by simpa using hRest) hTail (by rwa [hSame])
      rwa [reportOne_cfg] at hStep

theorem creationValues_channelPromoted (cfg : Cfg) (f : α) :
    CreationValues num cfg f (channelPromoted num cfg f) := by
  constructor <;> rfl

end Promotion

/-- Settles O41: slot by slot, through the report in its ascending order. -/
theorem promotionOnlyOfInactive : Obligations.PromotionOnlyOfInactive := by
  intro α num b hLen hSats hAscending
  refine ⟨rfl, fun x hx hInactive => ?promoted, fun i c hc hCase => ?kept⟩
  case promoted =>
    have hSlot : (acqReport num b).ch[x.sat - 1]? = some (channelPromoted num b.cfg x.freq) :=
      reportAll_ch_promoted num (b := emit (.acqDone b.acq.found.length) b) hx
        (fun y hy => hLen ▸ hSats y hy) hAscending hInactive
    exact ⟨hSlot, _, hSlot, creationValues_channelPromoted num b.cfg x.freq⟩
  case kept =>
    rcases hCase with hActive | hAbsent
    · exact reportAll_ch_active num b.acq.found (b := emit (.acqDone b.acq.found.length) b) hc hActive
    · have hOther (x : Found α) (hx : x ∈ b.acq.found) : x.sat - 1 ≠ i := by
        have hLow := (hSats x hx).1
        have hNe := hAbsent x hx
        omega
      exact (reportAll_ch_other num (emit (.acqDone b.acq.found.length) b) hOther).trans hc

end Sys2Proof.Machine

/-! PROOFS. Memory: the statement of 20_memory.md: every step keeps every memory space at its length (R60,
R63, R64). -/

namespace Sys2Proof.Machine

/-! ### The form of a channel and of the block (R60) -/

/-- The memory spaces of a channel have the lengths of R60, for a code period of `n` samples. -/
structure ChannelForm {α : Type} (n : Nat) (c : Channel α) : Prop where
  buf : c.buf.length = n
  ma : c.ma.length = faMaLen
  pllErr : c.pllErr.length = pllBlock
  sf : c.sf.length = sfWords
  frame : c.frame.length = frameSf
  stored : ∀ f ∈ c.frame, f.length = sfWords
  frameHave : c.frameHave.length = frameSf
  frameMeta : c.frameMeta.length = frameSf

/-- What the rules of a period keep. The start of the next period copies as many samples as the code offset
says, so the offset has to fit the period buffer (R63, R224). -/
structure PeriodForm {α : Type} (n : Nat) (c : Channel α) : Prop extends ChannelForm n c where
  off_le : c.codeOff.natAbs ≤ n

/-- `Memory.wf`, space by space. -/
structure BlockForm {α : Type} (b : Block α) : Prop where
  blk : b.sys.blk.length = b.cfg.n
  capture : b.acq.buf.length = b.cfg.captureLen
  bestRatio : b.acq.bestRatio.length = nSat
  bestFreq : b.acq.bestFreq.length = nSat
  slots : b.ch.length = nSat
  channels : ∀ c ∈ b.ch, ChannelForm b.cfg.n c
  tables : b.sys.mode = .fatal ∨ (b.cg.code.length = nSat ∧ (∀ k ∈ b.cg.code, k.length = codeLen)
    ∧ b.cg.spec.length = nSat ∧ (∀ z ∈ b.cg.spec, z.length = b.cfg.n))

section MemoryForm

variable {α : Type} (num : Numerics α) {cfg : Cfg} {n : Nat}

theorem channelForm_iff (c : Channel α) : ChannelForm n c ↔
    c.buf.length = n ∧ c.ma.length = faMaLen ∧ c.pllErr.length = pllBlock ∧ c.sf.length = sfWords
      ∧ c.frame.length = frameSf ∧ (∀ f ∈ c.frame, f.length = sfWords) ∧ c.frameHave.length = frameSf
      ∧ c.frameMeta.length = frameSf :=
  ⟨fun ⟨hBuf, hMa, hErr, hSf, hFrame, hStored, hHave, hMeta⟩ =>
      ⟨hBuf, hMa, hErr, hSf, hFrame, hStored, hHave, hMeta⟩,
    fun ⟨hBuf, hMa, hErr, hSf, hFrame, hStored, hHave, hMeta⟩ =>
      ⟨hBuf, hMa, hErr, hSf, hFrame, hStored, hHave, hMeta⟩⟩

theorem memory_wf_iff_blockForm (b : Block α) : Memory.wf b = true ↔ BlockForm b := by
  simp only [memory_wf_iff, ← channelForm_iff]
  exact ⟨fun ⟨hBlk, hCapture, hRatio, hFreq, hSlots, hChannels, hTables⟩ =>
      ⟨hBlk, hCapture, hRatio, hFreq, hSlots, hChannels, hTables⟩,
    fun ⟨hBlk, hCapture, hRatio, hFreq, hSlots, hChannels, hTables⟩ =>
      ⟨hBlk, hCapture, hRatio, hFreq, hSlots, hChannels, hTables⟩⟩

/-- A promoted channel holds the spaces of a newly created one (R203). -/
theorem channelForm_channelPromoted (cfg : Cfg) (f : α) :
    ChannelForm cfg.n (channelPromoted num cfg f) :=
  (channelForm_iff _).mpr (channelNew_lengths num cfg)

/-! ### A channel, from one rule to a whole block

Every write of an element keeps the length of its space; only the start of a period builds a buffer anew. -/

theorem goto_periodForm (s : Nat) (new : LockState) (cause : Cause) {c : Channel α} (h : PeriodForm n c) :
    PeriodForm n (goto num s new cause c).ch := by
  cases new <;> exact { h with }

/-! #### Navigation -/

theorem preambleMatch_periodForm (s : Nat) (v : NavWord) (inverted : Bool) {c : Channel α}
    (h : PeriodForm n c) : PeriodForm n (preambleMatch num s v inverted c).ch :=
  goto_periodForm num s _ _ { h with sf := by simpa using h.sf }

theorem preambleBit_periodForm (s : Nat) (bit : Bool) {c : Channel α} (h : PeriodForm n c) :
    PeriodForm n (preambleBit num s bit c).ch := by
  simp only [preambleBit, preambleTest]
  split_ifs
  · exact preambleMatch_periodForm num s _ _ { h with }
  · exact preambleMatch_periodForm num s _ _ { h with }
  · exact { h with }
  · exact { h with }

/-- A stored subframe has the ten words of the buffer it is copied from (R320). -/
theorem storeSubframe_periodForm {c : Channel α} (h : PeriodForm n c) : PeriodForm n (storeSubframe c) where
  __ := h
  frame := by simpa [storeSubframe] using h.frame
  stored f hf := by
    rcases List.mem_or_eq_of_mem_set hf with hOld | rfl
    · exact h.stored f hOld
    · exact h.sf
  frameHave := by simpa [storeSubframe] using h.frameHave
  frameMeta := by simpa [storeSubframe] using h.frameMeta

theorem keepSubframe_periodForm (s : Nat) {c : Channel α} (h : PeriodForm n c) :
    PeriodForm n (keepSubframe s c).ch := by
  unfold keepSubframe
  split
  · exact storeSubframe_periodForm h
  · exact h

theorem acceptSubframe_periodForm (s : Nat) {c : Channel α} (h : PeriodForm n c) :
    PeriodForm n (acceptSubframe num s c).ch :=
  goto_periodForm num s .preambleAcquire .subframeDone (c := { (keepSubframe s c).ch with sfBits := 0 })
    { keepSubframe_periodForm s h with }

theorem rejectSubframe_periodForm (s idx : Nat) {c : Channel α} (h : PeriodForm n c) :
    PeriodForm n (rejectSubframe num s idx c).ch :=
  goto_periodForm num s .signalLost .parity h

theorem validateSubframe_periodForm (s : Nat) {c : Channel α} (h : PeriodForm n c) :
    PeriodForm n (validateSubframe num s c).ch := by
  simp only [validateSubframe]
  split
  · exact rejectSubframe_periodForm num s _ { h with }
  · split_ifs
    · exact rejectSubframe_periodForm num s _ { h with }
    · exact acceptSubframe_periodForm num s { h with }

theorem subframeBit_periodForm (s : Nat) (bit : Bool) {c : Channel α} (h : PeriodForm n c) :
    PeriodForm n (subframeBit num s bit c).ch := by
  have hPlaced : PeriodForm n { c with sf := placeBit c.sf c.sfBits bit, sfBits := c.sfBits + 1 } :=
    { h with sf := by simpa using h.sf }
  simp only [subframeBit]
  split_ifs
  · exact validateSubframe_periodForm num s hPlaced
  · exact hPlaced

theorem chBit_periodForm (s : Nat) (bit : Bool) {c : Channel α} (h : PeriodForm n c) :
    PeriodForm n (chBit num s bit c).ch := by
  unfold chBit
  cases c.state with
  | preambleAcquire => exact preambleBit_periodForm num s bit h
  | subframeAcquire => exact subframeBit_periodForm num s bit h
  | offsetAcquire => exact h
  | frequencyAcquire => exact h
  | pllAcquire => exact h
  | bitAcquire => exact h
  | signalLost => exact h

/-! #### The bit window and the phase checks -/

theorem bitStage_periodForm (s : Nat) (peak : Cx α) {c : Channel α} (h : PeriodForm n c) :
    PeriodForm n (bitStage num s peak c).ch := by
  simp only [bitStage]
  split_ifs
  · exact goto_periodForm num s .bitAcquire .bitsync { h with }
  · exact chBit_periodForm num s _ { h with }
  · exact { h with }

theorem bitSyncStage_periodForm (s : Nat) (peak : Cx α) {c : Channel α} (h : PeriodForm n c) :
    PeriodForm n (bitSyncStage num s peak c).ch := by
  simp only [bitSyncStage]
  split_ifs
  · exact { h with }
  · have hGoto : PeriodForm n (goto num s .preambleAcquire .advance { c with bsPrev := num.sgn peak.re }).ch :=
      goto_periodForm num s _ _ { h with }
    exact { hGoto with }
  · exact { h with }

theorem iqCount_periodForm (s : Nat) (ok : Bool) {c : Channel α} (h : PeriodForm n c) :
    PeriodForm n (iqCount num s ok c).ch := by
  simp only [iqCount]
  split_ifs
  · exact { h with }
  · exact goto_periodForm num s _ _ { h with }
  · exact { h with }

theorem pllCount_periodForm (s : Nat) (ok : Bool) {c : Channel α} (h : PeriodForm n c) :
    PeriodForm n (pllCount num s ok c).ch := by
  simp only [pllCount]
  split_ifs
  · exact goto_periodForm num s _ _ { h with }
  · exact { h with }
  · exact { h with }

/-- A rule that runs only while the channel is alive, after another. -/
theorem andThen_ifAlive_periodForm {t : Tracked α} {f : Channel α → Tracked α} (ht : PeriodForm n t.ch)
    (hf : ∀ c, PeriodForm n c → PeriodForm n (f c).ch) : PeriodForm n (t.andThen (ifAlive f)).ch := by
  simp only [andThen_ch, ifAlive]
  split_ifs
  · exact hf t.ch ht
  · exact ht

/-! #### The carrier loops -/

theorem trkPll_periodForm (peak : Cx α) {c : Channel α} (h : PeriodForm n c) :
    PeriodForm n (trkPll num cfg peak c) := by
  have hErr (e : α) : (memWrite c.pllErr c.pllN e).length = pllBlock := by simpa using h.pllErr
  simp only [trkPll, pllPush]
  split_ifs <;> exact { h with pllErr := hErr _ }

theorem estimate_periodForm (s : Nat) {c : Channel α} (h : PeriodForm n c) :
    PeriodForm n (estimate num cfg s c).ch := by
  have hPushed (v : α) : (memWrite c.ma c.maPos v).length = faMaLen := by simpa using h.ma
  simp only [estimate]
  split_ifs
  · exact goto_periodForm num s _ _ { h with ma := hPushed _ }
  · exact { h with ma := hPushed _ }

theorem frequencyStage_periodForm (s : Nat) (peak : Cx α) {c : Channel α} (h : PeriodForm n c) :
    PeriodForm n (frequencyStage num cfg s peak c).ch := by
  simp only [frequencyStage, frequencyDelta]
  split_ifs
  · exact estimate_periodForm num s { h with }
  · exact { h with }
  · exact { h with }
  · exact { h with }

/-! #### The lock state machine -/

theorem validPeriod_periodForm (s : Nat) (peak : Cx α) {c : Channel α} (h : PeriodForm n c) :
    PeriodForm n (validPeriod num cfg s peak c).ch := by
  have hPll : PeriodForm n (trkPll num cfg peak c) := trkPll_periodForm num peak h
  have hChecked := iqCount_periodForm num s (iqOk num peak) hPll
  unfold validPeriod
  cases c.state with
  | frequencyAcquire => exact frequencyStage_periodForm num s peak h
  | pllAcquire => exact pllCount_periodForm num s _ hPll
  | bitAcquire => exact andThen_ifAlive_periodForm hChecked fun _ => bitSyncStage_periodForm num s peak
  | preambleAcquire => exact andThen_ifAlive_periodForm hChecked fun _ => bitStage_periodForm num s peak
  | subframeAcquire => exact andThen_ifAlive_periodForm hChecked fun _ => bitStage_periodForm num s peak
  | offsetAcquire => exact h
  | signalLost => exact h

theorem offsetStage_periodForm (s : Nat) (ok : Bool) {c : Channel α} (h : PeriodForm n c) :
    PeriodForm n (offsetStage num s ok c).ch := by
  simp only [offsetStage]
  split_ifs
  · exact goto_periodForm num s _ _ { h with }
  · exact { h with }
  · exact goto_periodForm num s _ _ { h with }
  · exact { h with }

/-- An invalid offset is zeroed, which fits any buffer (R254). -/
theorem offsetInvalidLater_periodForm (s : Nat) {c : Channel α} (h : PeriodForm n c) :
    PeriodForm n (offsetInvalidLater num s c).ch := by
  simp only [offsetInvalidLater]
  split_ifs
  · exact goto_periodForm num s _ _ { h with }
  · exact { h with off_le := Nat.zero_le n }

theorem trkStep_periodForm (s : Nat) (offOk : Bool) (peak : Cx α) {c : Channel α} (h : PeriodForm n c) :
    PeriodForm n (trkStep num cfg s offOk peak c).ch := by
  unfold trkStep
  split_ifs
  · exact offsetStage_periodForm num s offOk h
  · exact h
  · exact validPeriod_periodForm num s peak { h with }
  · exact offsetInvalidLater_periodForm num s h

/-! #### Periods, samples and blocks -/

/-- Trailing samples are re-used only as far as the buffer holds them (R224). -/
theorem startPeriod_channelForm {c : Channel α} (h : PeriodForm cfg.n c) :
    ChannelForm cfg.n (startPeriod cfg c) := by
  unfold startPeriod
  split_ifs
  · exact { h with }
  · exact { h with }
  · exact { h with buf := reuseTail_length cfg.n _ c.buf h.buf h.off_le }

/-- The offset of a correlation peak fits the period buffer (R176). -/
theorem signedOffset_peak_natAbs_le (hn : 0 < n) (spec y : List (Cx α)) :
    (signedOffset n (peakIndex num (corr num n spec y))).natAbs ≤ n := by
  obtain ⟨hLow, hHigh⟩ := signedOffset_bounds (peakIndex_corr_lt num hn spec y)
  omega

theorem chPeriod_channelForm (hn : 0 < cfg.n) (spec : List (Cx α)) (s : Nat) {c : Channel α}
    (h : ChannelForm cfg.n c) : ChannelForm cfg.n (chPeriod num cfg spec s c).ch := by
  have hMeasured : PeriodForm cfg.n
      { c with codeOff := signedOffset cfg.n (peakIndex num (corr num cfg.n spec c.buf)) } :=
    { h with off_le := signedOffset_peak_natAbs_le num hn spec c.buf }
  have hStep (ok : Bool) (peak : Cx α) := trkStep_periodForm num (cfg := cfg) s ok peak hMeasured
  simp only [chPeriod, andThen_ch, quiet_ch]
  split_ifs
  · exact startPeriod_channelForm (hStep _ _)
  · exact (hStep _ _).toChannelForm

/-- A sample that fills the buffer shows that the code period is not empty (R221). -/
theorem chFeed_channelForm (spec : List (Cx α)) (s : Nat) (x : Cx α) (c : Channel α)
    (h : ChannelForm cfg.n c) : ChannelForm cfg.n (chFeed num cfg spec s x c).ch := by
  have hStored (y : Cx α) : (memWrite c.buf c.fill y).length = cfg.n := by simpa using h.buf
  simp only [chFeed]
  split_ifs with hAlive hSkip hFull
  · exact { h with }
  · have hn : 0 < cfg.n := hFull ▸ Nat.succ_pos c.fill
    exact chPeriod_channelForm num hn spec s { h with buf := hStored _ }
  · exact { h with buf := hStored _ }
  · exact h

theorem deliver_channelForm (b : Block α) (s : Nat) (c : Channel α) (h : ChannelForm b.cfg.n c) :
    ChannelForm b.cfg.n (deliver num b s c).ch := by
  unfold deliver
  split_ifs
  · exact feedAll_keeps (chFeed_channelForm num _ s) _ c h
  · exact h

theorem livenessPoll_channelForm (s : Nat) (c : Channel α) (h : ChannelForm n c) :
    ChannelForm n (livenessPoll s c).ch := by
  unfold livenessPoll
  split_ifs
  · exact { h with }
  · exact h

/-! ### The block: acquisition, the block boundary, a sample -/

/-- An operation on all slots keeps the form of the block if it keeps that of each slot. -/
theorem onSlots_blockForm {f : Nat → Channel α → Tracked α} {b : Block α}
    (hf : ∀ s c, ChannelForm b.cfg.n c → ChannelForm b.cfg.n (f s c).ch) (h : BlockForm b) :
    BlockForm (onSlots f b) :=
  { h with
    slots := by simpa using h.slots
    channels := forSlots_all hf 1 b.ch h.channels }

theorem acqPromote_blockForm (s : Nat) (f : α) {b : Block α} (h : BlockForm b) :
    BlockForm (acqPromote num s f b) where
  __ := h
  slots := by simpa [acqPromote] using h.slots
  channels c hc := by
    rcases List.mem_or_eq_of_mem_set hc with hOld | rfl
    · exact h.channels c hOld
    · exact channelForm_channelPromoted num b.cfg f

theorem reportOne_blockForm (x : Found α) {b : Block α} (h : BlockForm b) :
    BlockForm (reportOne num b x) := by
  simp only [reportOne]
  split_ifs
  · exact acqPromote_blockForm num _ _ { h with }
  · exact { h with }

theorem reportAll_blockForm (xs : List (Found α)) {b : Block α} (h : BlockForm b) :
    BlockForm (xs.foldl (reportOne num) b) := by
  induction xs generalizing b with
  | nil => exact h
  | cons x xs ih => exact ih (reportOne_blockForm num x h)

theorem acqReport_blockForm {b : Block α} (h : BlockForm b) : BlockForm (acqReport num b) :=
  { reportAll_blockForm num b.acq.found (b := emit (.acqDone b.acq.found.length) b) { h with } with }

/-- The sweep writes one best ratio and one best frequency for each satellite (R196). -/
theorem acqSweep_blockForm {b : Block α} (h : BlockForm b) : BlockForm (acqSweep num b) :=
  { h with
    bestRatio := by simp [acqSweep]
    bestFreq := by simp [acqSweep] }

theorem pollSweep_blockForm {b : Block α} (h : BlockForm b) : BlockForm (pollSweep num b) := by
  simp only [pollSweep]
  split_ifs
  · exact acqSweep_blockForm num { h with }
  · exact { h with }

theorem acqPoll_blockForm {b : Block α} (h : BlockForm b) : BlockForm (acqPoll num b) := by
  simp only [acqPoll]
  split_ifs
  · exact acqReport_blockForm num (pollSweep_blockForm num h)
  · exact pollSweep_blockForm num h
  · exact acqReport_blockForm num h
  · exact h

theorem blockDone_blockForm {b : Block α} (h : BlockForm b) : BlockForm (blockDone num b) := by
  have hDelivered : BlockForm (onSlots (deliver num b) b) := onSlots_blockForm (deliver_channelForm num b) h
  have hPolled : BlockForm (onSlots livenessPoll (onSlots (deliver num b) b)) :=
    onSlots_blockForm livenessPoll_channelForm hDelivered
  exact { acqPoll_blockForm num hPolled with }

theorem takeSample_wf (x : Cx α) {b : Block α} (h : Memory.wf b = true) :
    Memory.wf (takeSample num x b) = true := by
  have hFed : Memory.wf (fedSample x b) = true := assembleBlock_wf x _ (acqFeed_wf x b h)
  rcases takeSample_cases num x b with ⟨-, hTaken⟩ | ⟨-, hTaken⟩ <;> rw [hTaken]
  · exact hFed
  · rw [memory_wf_iff_blockForm] at hFed ⊢
    exact blockDone_blockForm num hFed

/-- A host's change writes no memory space, and leaves the mode as it was (R20, R23). -/
theorem hostChange_wf {b b' : Block α} (hChange : HostChange b b') (h : Memory.wf b = true) :
    Memory.wf b' = true := by
  obtain ⟨_, _, _, _, rfl⟩ := hChange
  exact h

end MemoryForm

/-! ### An invariant of both modes -/

/-- A property of the block that every reset gives, in either mode, and that every host's change and every
sample taken keep, is kept by every step. -/
theorem step_keeps {P : Block NumVal → Prop} (hReset : ∀ cfg draws, P (blockReset Config.num cfg draws))
    (hHost : ∀ b b', HostChange b b' → P b → P b') (hSample : ∀ x b, P b → P (takeSample Config.num x b))
    (s t : State) (h : P s.toBlock) (hStep : step s = .next t) : P t.toBlock := by
  cases hPort : s.port with
  | nil =>
    rw [step_idle hPort] at hStep
    cases hStep
    exact h
  | cons e rest =>
    cases e with
    | reset cfg =>
      rw [step_reset hPort] at hStep
      by_cases hType : cfg.inType = true
      · rw [portReset_inType rest s hType] at hStep
        cases hStep
        exact hReset cfg s.draws
      · rw [portReset_not_inType rest s hType] at hStep
        cases hStep
    | command c =>
      obtain ⟨-, b, hChange, hBlock⟩ := step_command_next hPort hStep
      have hHeld : P b := hHost _ b hChange h
      rcases hBlock with hBlock | ⟨x, -, hBlock⟩ <;> rw [hBlock]
      · exact hHeld
      · exact hSample x b hHeld

/-- Settles O22: a reset builds every space at its length, a host's change writes none, and a sample keeps
them, through the channels and the acquisition engine at the boundary of its block. -/
theorem stepKeepsMemoryForm : Obligations.StepKeepsMemoryForm :=
  step_keeps (P := fun b => Memory.wf b = true) (blockReset_wf Config.num)
    (fun _ _ => hostChange_wf) (fun x _ => takeSample_wf Config.num x)

end Sys2Proof.Machine

/-! PROOFS. Encoding: the statements of 30_encoding.md: command words and their commands (R90 to R95), mode
FATAL on the command port (R90, R97, R381), the event records (R100 to R103) and the status words (R97 to
R99). -/

namespace Sys2Proof.Machine

/-! ### A command word as its three fields (R90) -/

theorem fieldA_assemble (opc a : BitVec 8) (b : BitVec 16) : fieldA (assemble opc a b) = a := by
  unfold fieldA assemble
  rw [BitVec.extractLsb'_append_eq_of_add_le (by decide), BitVec.extractLsb'_append_eq_left]

theorem fieldB_assemble (opc a : BitVec 8) (b : BitVec 16) : fieldB (assemble opc a b) = b := by
  unfold fieldB assemble
  rw [BitVec.extractLsb'_append_eq_of_add_le (by decide), BitVec.extractLsb'_append_eq_right]

theorem assemble_fields (w : Word) : assemble (fieldOpc w) (fieldA w) (fieldB w) = w := by
  have hLow : fieldA w ++ fieldB w = w.extractLsb' 0 24 :=
    BitVec.extractLsb'_append_extractLsb'_eq_extractLsb' rfl
  rw [assemble, hLow]
  exact BitVec.extractLsb'_append_extractLsb' (w := 8) (len := 24)

theorem assemble_and (opc opc' a a' : BitVec 8) (b b' : BitVec 16) :
    assemble opc a b &&& assemble opc' a' b' = assemble (opc &&& opc') (a &&& a') (b &&& b') :=
  BitVec.and_append.trans (congrArg _ BitVec.and_append)

theorem assemble_or (opc opc' a a' : BitVec 8) (b b' : BitVec 16) :
    assemble opc a b ||| assemble opc' a' b' = assemble (opc ||| opc') (a ||| a') (b ||| b') :=
  BitVec.or_append.trans (congrArg _ BitVec.or_append)

/-- The mask of the rows that carry fields `A` and `B` (R92). -/
theorem assemble_and_maskOpc (opc a : BitVec 8) (b : BitVec 16) :
    assemble opc a b &&& 0xFF000000#32 = assemble opc 0 0 := by
  have hMask : 0xFF000000#32 = assemble (.allOnes 8) 0 0 := by decide
  rw [hMask, assemble_and, BitVec.and_allOnes]
  simp

/-- The mask of the row that carries field `A` alone (R92). -/
theorem assemble_and_maskOpcB (opc a : BitVec 8) (b : BitVec 16) :
    assemble opc a b &&& 0xFF00FFFF#32 = assemble opc 0 b := by
  have hMask : 0xFF00FFFF#32 = assemble (.allOnes 8) 0 (.allOnes 16) := by decide
  rw [hMask, assemble_and, BitVec.and_allOnes, BitVec.and_allOnes]
  simp

/-- An operation code, with fields `A` and `B` of a word where the mask leaves them free. -/
theorem assemble_or_unmaskedAB (opc : BitVec 8) (w : Word) :
    assemble opc 0 0 ||| (w &&& ~~~0xFF000000#32) = assemble opc (fieldA w) (fieldB w) := by
  have hFree : ~~~0xFF000000#32 = assemble 0 (.allOnes 8) (.allOnes 16) := by decide
  conv_lhs => rw [← assemble_fields w, hFree, assemble_and, assemble_or, BitVec.and_allOnes,
    BitVec.and_allOnes]
  simp

/-- An operation code, with field `A` of a word where the mask leaves it free. -/
theorem assemble_or_unmaskedA (opc : BitVec 8) (w : Word) :
    assemble opc 0 0 ||| (w &&& ~~~0xFF00FFFF#32) = assemble opc (fieldA w) 0 := by
  have hFree : ~~~0xFF00FFFF#32 = assemble 0 (.allOnes 8) 0 := by decide
  conv_lhs => rw [← assemble_fields w, hFree, assemble_and, assemble_or, BitVec.and_allOnes]
  simp

/-! ### The rows of the opcode map (R92, R94) -/

/-- Every row fixes the whole operation code. -/
theorem fieldOpc_of_selects {r : OpcodeRow} {w : Word} (hr : r ∈ opcodeRows) (h : r.selects w = true) :
    fieldOpc w = fieldOpc r.value := by
  have hMask : ∀ r ∈ opcodeRows, fieldOpc r.mask = .allOnes 8 := by decide
  have hValue : w &&& r.mask = r.value := beq_iff_eq.mp h
  rw [← hValue, fieldOpc, fieldOpc, BitVec.extractLsb'_and, ← fieldOpc, ← fieldOpc, hMask r hr,
    BitVec.and_allOnes]

/-- The rows have different operation codes, so no word selects two. -/
theorem row_unique {r r' : OpcodeRow} {w : Word} (hr : r ∈ opcodeRows) (hr' : r' ∈ opcodeRows)
    (h : r.selects w = true) (h' : r'.selects w = true) : r = r' := by
  have hCodes : (opcodeRows.map fun r => fieldOpc r.value).Nodup := by decide
  exact List.inj_on_of_nodup_map hCodes hr hr'
    ((fieldOpc_of_selects hr h).symm.trans (fieldOpc_of_selects hr' h'))

theorem decode_eq_ok_iff (w : Word) (i : Instr) :
    decode w = .ok i ↔ ∃ r ∈ opcodeRows, r.selects w = true ∧ r.build w = i := by
  unfold decode
  cases hFind : opcodeRows.find? (fun r => r.selects w) with
  | none =>
    have hNone := List.find?_eq_none.mp hFind
    exact ⟨nofun, fun ⟨r, hr, hSelects, _⟩ => absurd hSelects (hNone r hr)⟩
  | some r =>
    have hMem := List.mem_of_find?_eq_some hFind
    have hSelects : r.selects w = true := List.find?_some (p := fun r : OpcodeRow => r.selects w) hFind
    constructor
    · rintro ⟨⟩
      exact ⟨r, hMem, hSelects, rfl⟩
    · rintro ⟨r', hMem', hSelects', rfl⟩
      rw [row_unique hMem hMem' hSelects hSelects']

/-- A command's word lies in a row that builds the command from it. -/
theorem encode_selects (i : Instr) :
    ∃ r ∈ opcodeRows, r.selects (encode i) = true ∧ r.build (encode i) = i := by
  cases i with
  | cgChip sat idx =>
    refine ⟨opcodeRows[5], List.getElem_mem _, beq_iff_eq.mpr (assemble_and_maskOpc 0x10 sat idx), ?_⟩
    exact congrArg₂ Instr.cgChip (fieldA_assemble 0x10 sat idx) (fieldB_assemble 0x10 sat idx)
  | cgSpec sat bin =>
    refine ⟨opcodeRows[6], List.getElem_mem _, beq_iff_eq.mpr (assemble_and_maskOpc 0x11 sat bin), ?_⟩
    exact congrArg₂ Instr.cgSpec (fieldA_assemble 0x11 sat bin) (fieldB_assemble 0x11 sat bin)
  | chStat sat =>
    refine ⟨opcodeRows[8], List.getElem_mem _, beq_iff_eq.mpr (assemble_and_maskOpcB 0x30 sat 0), ?_⟩
    exact congrArg Instr.chStat (fieldA_assemble 0x30 sat 0)
  | _ => decide

/-- The word of a row's command: the bits the row fixes, and the word's own bits where the mask is 0. -/
theorem encode_build (w : Word) :
    ∀ r ∈ opcodeRows, encode (r.build w) = r.value ||| (w &&& ~~~r.mask) := by
  have hFixed (v : Word) : v = v ||| (w &&& ~~~0xFFFFFFFF#32) := by simp
  have hCgChip := (assemble_or_unmaskedAB 0x10 w).symm
  have hCgSpec := (assemble_or_unmaskedAB 0x11 w).symm
  have hChStat := (assemble_or_unmaskedA 0x30 w).symm
  simp only [opcodeRows, List.forall_mem_cons]
  exact ⟨hFixed _, hFixed _, hFixed _, hFixed _, hFixed _, hCgChip, hCgSpec, hFixed _, hChStat, hFixed _,
    hFixed _, nofun⟩

theorem decode_encode (i : Instr) : decode (encode i) = .ok i :=
  (decode_eq_ok_iff _ i).mpr (encode_selects i)

/-- The bits that a row fixes are the word's own when the row selects it (R94). -/
theorem encode_of_decode {w : Word} {i : Instr} (h : decode w = .ok i) : encode i = w := by
  obtain ⟨r, hr, hSelects, rfl⟩ := (decode_eq_ok_iff w i).mp h
  have hValue : w &&& r.mask = r.value := beq_iff_eq.mp hSelects
  rw [encode_build w r hr, ← hValue, ← BitVec.and_or_distrib_left, BitVec.or_not_self, BitVec.and_allOnes]

/-- Settles O1: a command's word lies in the row that builds it, and a row's command has the row's fixed bits
and the word's free ones. -/
theorem decodeAndEncodeAgree : Obligations.DecodeAndEncodeAgree :=
  ⟨decode_encode, fun _ _ => encode_of_decode⟩

theorem decode_of_encode_eq {w : Word} {i : Instr} (h : encode i = w) : decode w = .ok i :=
  h ▸ decode_encode i

/-- Settles O2: each word is the encoding of its command. -/
theorem writtenWordsDecode : Obligations.WrittenWordsDecode := by
  refine ⟨?_, ?_, ?_, ?_, ?_, ?_, ?_, ?_, ?_, ?_, ?_⟩ <;> exact decode_of_encode_eq rfl

/-! ### Mode FATAL (R90, R97, R381) -/

theorem onBlock_whenRunning_fatal {k : Block NumVal → BlockOutcome NumVal} {s : State}
    (h : s.sys.mode = .fatal) : onBlock (whenRunning k) s = .next s :=
  onBlock_of_next (whenRunning_fatal h)

theorem onBlock_whenRunning_next {k : Block NumVal → BlockOutcome NumVal} {s : State} {b : Block NumVal}
    (hRun : s.sys.mode = .run) (h : k s.toBlock = .next b) :
    onBlock (whenRunning k) s = .next { s with toBlock := b } :=
  onBlock_of_next ((whenRunning_run hRun).trans h)

theorem exec_fatal {i : Instr} {s : State} (hFatal : s.sys.mode = .fatal) (hi : i ≠ .sysStat) :
    exec i s = .next s := by
  cases i with
  | nop => rfl
  | sysStat => exact absurd rfl hi
  | _ => exact onBlock_whenRunning_fatal hFatal

theorem doSysStat_fatal {α : Type} (num : Numerics α) {b : Block α} (h : b.sys.mode = .fatal) :
    doSysStat num b = .next (writeResi sysStatFatal b) := by
  simp only [doSysStat, h]

theorem doSysStat_run {α : Type} (num : Numerics α) {b : Block α} (h : b.sys.mode = .run) :
    doSysStat num b = .next (writeResi (sysStatWord b) (writeRes0 (num.ofNat b.sys.sidx) b)) := by
  simp only [doSysStat, h]

theorem exec_sysStat_fatal {s : State} (h : s.sys.mode = .fatal) :
    exec .sysStat s = .next { s with cmd := { s.cmd with resi := 0x00000001#32 } } :=
  onBlock_of_next (doSysStat_fatal Config.num h)

/-- Settles O7: a word that decodes to nothing and every command but `SYS.STAT` stop at the check of the mode,
which is the same after the command is accepted. -/
theorem fatalModeIsInert : Obligations.FatalModeIsInert := by
  intro s c rest hFatal hPort
  have hAccept := acceptCommand_fatal c rest hFatal
  cases hDecode : decode c.w with
  | error e =>
    rw [step_rejected hPort hDecode, hAccept, if_neg nofun]
    exact onBlock_whenRunning_fatal hFatal
  | ok i =>
    rw [step_command hPort hDecode, hAccept]
    by_cases hi : i = .sysStat
    · subst hi
      rw [if_pos rfl]
      exact exec_sysStat_fatal hFatal
    · rw [if_neg (fun h => hi (Except.ok.inj h))]
      exact exec_fatal hFatal hi

/-! ### Event records (R100 to R103) -/

/-- The four fields of a header (R100): kind, satellite, `aux1`, `aux2`. -/
def headerFields (h : Word) : Nat × Nat × Nat × Nat :=
  ((h.extractLsb' 28 4).toNat, (h.extractLsb' 22 6).toNat, (h.extractLsb' 16 6).toNat,
    (h.extractLsb' 0 16).toNat)

/-- Six bits hold every number that R97, R98 and R100 put into six bits, which is at most 32. -/
theorem toNat_ofNat_six {k : Nat} (h : k ≤ 32) : (BitVec.ofNat 6 k).toNat = k :=
  Nat.mod_eq_of_lt (by omega)

theorem headerFields_header (kind : BitVec 4) {sat n : Nat} {aux1 : BitVec 6} (aux2 : BitVec 16)
    (hSat : sat ≤ 32) (hAux1 : aux1.toNat = n) :
    headerFields (header kind sat aux1 aux2) = (kind.toNat, sat, n, aux2.toNat) := by
  simp only [headerFields, header, BitVec.extractLsb'_append_eq_ite]
  simpa [hAux1] using toNat_ofNat_six hSat

/-- Bit vectors side by side are a number in two digits. -/
theorem toNat_append_eq_add {m n : Nat} (x : BitVec m) (y : BitVec n) :
    (x ++ y).toNat = 2 ^ n * x.toNat + y.toNat := by
  rw [BitVec.toNat_append, ← Nat.shiftLeft_add_eq_or_of_lt y.isLt, Nat.shiftLeft_eq, mul_comm]

theorem toNat_bit_six (p : Bool) : (if p then 1 else 0 : BitVec 6).toNat = p.toNat := by
  cases p <;> rfl

/-- `aux1` of `SUBFRAME`: the `stored` bit above the subframe id. -/
theorem toNat_storedId (stored : Bool) (id : BitVec 3) :
    (0#2 ++ BitVec.ofBool stored ++ id).toNat = 8 * stored.toNat + id.toNat := by
  rw [toNat_append_eq_add, toNat_append_eq_add]
  simp

/-- Settles O15: every header by the four fields of `header`, every payload and code as it is listed. -/
theorem eventRecordsOnThePort : Obligations.EventRecordsOnThePort := by
  refine ⟨fun α s hs => ?headers, fun α s => ?payloads, rfl, rfl, rfl⟩
  case headers =>
    exact ⟨fun k hk => headerFields_header 1 0 (Nat.zero_le 32) (toNat_ofNat_six hk),
      fun p r f => headerFields_header 2 0 hs (toNat_bit_six p),
      headerFields_header 3 0 hs rfl, headerFields_header 4 0 hs rfl,
      fun old new cause => headerFields_header 5 (causeCode cause) hs (toNat_append_eq_add _ _),
      fun bit => headerFields_header 6 0 hs (toNat_bit_six bit),
      headerFields_header 7 0 hs rfl,
      fun stored id ws m => headerFields_header 8 0 hs (toNat_storedId stored id),
      headerFields_header 9 0 hs rfl,
      fun idx hIdx => headerFields_header 10 0 hs (toNat_ofNat_six (by omega)),
      headerFields_header 15 0 (Nat.zero_le 32) rfl⟩
  case payloads =>
    refine ⟨fun p r f => rfl, fun stored id ws m => ⟨ws.map (0#2 ++ ·), ?words, ?low⟩,
      fun e hResult hSubframe => ?others⟩
    case words => simp [eventPayload]
    case low =>
      have hLow (w : NavWord) : (0#2 ++ w).extractLsb' 0 30 = w := BitVec.extractLsb'_append_eq_right
      exact (List.map_map ..).trans ((List.map_congr_left fun w _ => hLow w).trans (List.map_id ws))
    case others =>
      cases e with
      | acqResult i p r f => exact absurd rfl (hResult i p r f)
      | subframe i stored id ws m => exact absurd rfl (hSubframe i stored id ws m)
      | _ => rfl

/-! ### Status words (R97 to R99) -/

section StatusWords

variable {α : Type}

theorem activeCount_le (b : Block α) : activeCount b ≤ b.ch.length := List.length_filter_le ..

theorem sysStatWord_flags (b : Block α) :
    (sysStatWord b).getLsbD 0 = false ∧ (sysStatWord b).getLsbD 1 = b.sys.errCmd
      ∧ (sysStatWord b).getLsbD 2 = b.sys.errNan := by
  simp only [sysStatWord, BitVec.getLsbD_append]
  simp

theorem sysStatWord_zeros (b : Block α) :
    (sysStatWord b).extractLsb' 3 5 = 0 ∧ (sysStatWord b).extractLsb' 14 18 = 0 := by
  simp only [sysStatWord, BitVec.extractLsb'_append_eq_ite]
  simp

theorem sysStatWord_count {b : Block α} (h : b.ch.length = 32) :
    ((sysStatWord b).extractLsb' 8 6).toNat = activeCount b := by
  have hField : (sysStatWord b).extractLsb' 8 6 = BitVec.ofNat 6 (activeCount b) := by
    simp only [sysStatWord, BitVec.extractLsb'_append_eq_ite]
    simp
  rw [hField, toNat_ofNat_six (h ▸ activeCount_le b)]

theorem acqStatWord_fields (b : Block α) :
    (acqStatWord b).extractLsb' 0 2 = acqCode b.acq.state
      ∧ (acqStatWord b).extractLsb' 2 6 = BitVec.ofNat 6 b.acq.found.length
      ∧ (acqStatWord b).extractLsb' 8 24 = 0 := by
  simp only [acqStatWord, BitVec.extractLsb'_append_eq_ite]
  simp

theorem chStatWord_fields (c : Channel α) :
    (chStatWord c).extractLsb' 0 3 = lockCode c.state ∧ (chStatWord c).extractLsb' 6 26 = 0 := by
  simp only [chStatWord, BitVec.extractLsb'_append_eq_ite]
  simp

theorem chStatWord_flags (c : Channel α) :
    (chStatWord c).getLsbD 3 = c.active ∧ (chStatWord c).getLsbD 4 = c.alive
      ∧ ((chStatWord c).getLsbD 5 = true ↔ c.polarity = .neg) := by
  simp only [chStatWord, BitVec.getLsbD_append]
  simp

theorem writeChStat_active (num : Numerics α) {c : Channel α} (b : Block α) (h : c.active = true) :
    writeChStat num c b =
      writeResi (chStatWord c) (writeRes (oscFrequency num b.cfg c.nco) (num.ofInt c.codeOff) b) :=
  if_pos h

theorem writeChStat_inactive (num : Numerics α) {c : Channel α} (b : Block α) (h : c.active = false) :
    writeChStat num c b = writeResi chStatInactive (writeRes num.zero num.zero b) := by
  simp [writeChStat, h]

theorem satLegal_iff (sat : BitVec 8) : satLegal sat = true ↔ 1 ≤ sat.toNat ∧ sat.toNat ≤ 32 := by
  simp only [satLegal, Bool.and_eq_true, decide_eq_true_eq]
  exact Iff.rfl

theorem whenLegal_legal {ok : Bool} {k : Block α → BlockOutcome α} (b : Block α) (h : ok = true) :
    whenLegal ok k b = k b :=
  if_pos h

end StatusWords

/-- Settles O19: the word field by field, the count within its six bits because there are 32 slots. -/
theorem sysStatReportsSystem : Obligations.SysStatReportsSystem := by
  refine ⟨fun s hFatal => exec_sysStat_fatal hFatal, fun s hRun hSlots => ?_⟩
  obtain ⟨hMode, hErrCmd, hErrNan⟩ := sysStatWord_flags s.toBlock
  obtain ⟨hMiddle, hHigh⟩ := sysStatWord_zeros s.toBlock
  exact ⟨sysStatWord s.toBlock, onBlock_of_next (doSysStat_run Config.num hRun), hMode, hErrCmd, hErrNan,
    sysStatWord_count hSlots, hMiddle, hHigh⟩

/-- Settles O20: the word field by field, the length within its six bits by the bound on `acq.found`. -/
theorem acqStatReportsEngine : Obligations.AcqStatReportsEngine := by
  intro s hRun hFound
  obtain ⟨hState, hCount, hHigh⟩ := acqStatWord_fields s.toBlock
  exact ⟨acqStatWord s.toBlock, onBlock_whenRunning_next hRun rfl, hState,
    by rw [hCount, toNat_ofNat_six hFound], hHigh⟩

/-- `CH.STAT` of a satellite in range writes the status of its slot (R363). -/
theorem exec_chStat {s : State} {sat : BitVec 8} {c : Channel NumVal} (hRun : s.sys.mode = .run)
    (hLow : 1 ≤ sat.toNat) (hHigh : sat.toNat ≤ 32) (hc : s.ch[sat.toNat - 1]? = some c) :
    exec (.chStat sat) s = .next { s with toBlock := writeChStat Config.num c s.toBlock } := by
  have hSlot : channelAt Config.num s.toBlock (satOf sat) = c := channelAt_of_getElem? Config.num hc
  refine onBlock_whenRunning_next hRun ?_
  rw [whenLegal_legal s.toBlock ((satLegal_iff sat).mpr ⟨hLow, hHigh⟩), hSlot]

/-- Settles O21: the slot's word field by field if it is active, the fixed word if not, and IllegalCommand for an
id out of range. -/
theorem chStatReportsChannel : Obligations.ChStatReportsChannel := by
  intro s sat hRun
  refine ⟨fun c hLow hHigh hc => ⟨fun hActive => ?active, fun hInactive => ?inactive⟩, fun hOut => ?illegal⟩
  case active =>
    obtain ⟨hState, hZeros⟩ := chStatWord_fields c
    obtain ⟨hActiveBit, hAlive, hPolarity⟩ := chStatWord_flags c
    refine ⟨chStatWord c, ?_, hState, hActiveBit.trans hActive, hAlive, hPolarity, hZeros⟩
    rw [exec_chStat hRun hLow hHigh hc, writeChStat_active Config.num s.toBlock hActive]
    rfl
  case inactive =>
    rw [exec_chStat hRun hLow hHigh hc, writeChStat_inactive Config.num s.toBlock hInactive]
    rfl
  case illegal =>
    have hNot : satInRange sat = false := by simpa [satInRange] using hOut
    exact exec_notWellFormed hRun hNot

end Sys2Proof.Machine

/-! PROOFS. Nco: the statements of 40_nco.md: the oscillator's commands (R121 to R124), its laws over exact
reals, and the loop update that corrects a channel's oscillator (R266). -/

namespace Sys2Proof.Machine

/-! ### The commands on the host's oscillator (R121 to R124) -/

/-- Settles O13: past the check of the mode `NCO.EVAL` has one outcome, with the sample read off the oscillator
before the advance. -/
theorem ncoEvalReturnsThenAdvances : Obligations.NcoEvalReturnsThenAdvances :=
  fun _ hRun => onBlock_whenRunning_next hRun rfl

theorem withOpa_supplied {α : Type} {k : α → Block α → BlockOutcome α} {b : Block α} {x : α}
    (h : b.cmd.opa = some x) : withOpa k b = k x b := by
  simp [withOpa, h]

/-- A command that makes the host's oscillator `f x b` of its operand `x` does that and no more, in RUN with
`OPA` supplied. -/
theorem onBlock_setNcoH_opa {f : NumVal → Block NumVal → Osc NumVal} {s : State} {x : NumVal}
    (hRun : s.sys.mode = .run) (hx : s.cmd.opa = some x) :
    onBlock (whenRunning (withOpa fun x b => .next (setNcoH (f x b) b))) s
      = .next { s with ncoH := f x s.toBlock } :=
  onBlock_whenRunning_next hRun (withOpa_supplied hx)

/-- Settles O14: the three commands differ only in the oscillator they make. -/
theorem ncoSettingCommands : Obligations.NcoSettingCommands :=
  fun _ _ hRun hx =>
    ⟨onBlock_setNcoH_opa (f := fun f b => oscSetFrequency Config.num b.cfg f b.ncoH) hRun hx,
      onBlock_setNcoH_opa (f := fun df b => oscAddFrequency Config.num b.cfg df b.ncoH) hRun hx,
      onBlock_setNcoH_opa (f := fun dtheta b => oscAdvancePhase Config.num dtheta b.ncoH) hRun hx⟩

/-! ### Wrapping over exact reals (R7) -/

/-- A phase that is already wrapped stays. -/
theorem wrap2pi_of_wrapped {o : Osc ℝ} (h : phaseWrapped o) : exactNum.wrap2pi o.phase = o.phase := by
  obtain ⟨hLow, hHigh⟩ := h
  have hUnit : 0 ≤ o.phase / (2 * Real.pi) ∧ o.phase / (2 * Real.pi) < 1 :=
    ⟨div_nonneg hLow Real.two_pi_pos.le, (div_lt_one Real.two_pi_pos).mpr hHigh⟩
  rw [wrap2pi_eq_fract, Int.fract_eq_self.mpr hUnit, mul_div_cancel₀ _ Real.two_pi_pos.ne']

/-- Wrapping a term of a sum first makes no difference: it takes off whole turns. -/
theorem wrap2pi_wrap2pi_add (x y : ℝ) :
    exactNum.wrap2pi (exactNum.wrap2pi x + y) = exactNum.wrap2pi (x + y) := by
  have hTurns : (exactNum.wrap2pi x + y) / (2 * Real.pi)
      = (x + y) / (2 * Real.pi) - ⌊x / (2 * Real.pi)⌋ := by
    rw [exactNum_wrap2pi]
    field_simp
    ring
  rw [wrap2pi_eq_fract, hTurns, Int.fract_sub_intCast, ← wrap2pi_eq_fract]

/-! ### The oscillator over exact reals (R121 to R123) -/

theorem exactNum_oscIncrement (cfg : Cfg) (f : ℝ) :
    oscIncrement exactNum cfg f = 2 * Real.pi * f / cfg.fsHz := by
  simp [oscIncrement]

/-- The increment is linear in the frequency (R122). -/
theorem oscIncrement_add (cfg : Cfg) (f df : ℝ) :
    oscIncrement exactNum cfg (f + df) = oscIncrement exactNum cfg f + oscIncrement exactNum cfg df := by
  simp only [exactNum_oscIncrement]
  ring

/-- Every sample lies on the unit circle (R121). -/
theorem mag_oscOut (o : Osc ℝ) : exactNum.mag (oscOut exactNum o) = 1 := by
  have hCircle : exactNum.mag2 (oscOut exactNum o) = 1 :=
    (exactNum_mag2 _).trans (Real.cos_sq_add_sin_sq o.phase)
  rw [Numerics.mag, hCircle, exactNum_sqrt, Real.sqrt_one]

/-- `k` calls of `evaluate()` advance the phase by `k` increments, modulo `2π` (R121). -/
theorem oscAdvanceN_phase (k : Nat) {o : Osc ℝ} (h : phaseWrapped o) :
    (oscAdvanceN exactNum k o).phase = exactNum.wrap2pi (o.phase + o.inc * k) := by
  induction k generalizing o with
  | zero => rw [Nat.cast_zero, mul_zero, add_zero, wrap2pi_of_wrapped h]; rfl
  | succ k ih =>
    calc (oscAdvanceN exactNum k (oscAdvance exactNum o)).phase
        = exactNum.wrap2pi (exactNum.wrap2pi (o.phase + o.inc) + o.inc * k) := ih (phaseWrapped_oscAdvance o)
      _ = exactNum.wrap2pi (o.phase + o.inc + o.inc * k) := wrap2pi_wrap2pi_add ..
      _ = exactNum.wrap2pi (o.phase + o.inc * (k + 1 : Nat)) :=
        congrArg exactNum.wrap2pi (by push_cast; ring)

/-- Settles O30: the circle, the phase after `k` calls, and linearity of the increment. -/
theorem exactOscillatorLaws : Obligations.ExactOscillatorLaws := by
  refine ⟨mag_oscOut, fun cfg f o k h => ?advance, fun cfg f df o => ?add⟩
  case advance =>
    rw [← exactNum_oscIncrement]
    exact oscAdvanceN_phase k ((phaseWrapped_oscSetFrequency cfg f o).mpr h)
  case add => exact congrArg (Osc.mk o.phase) (oscIncrement_add cfg f df).symm

/-! ### The loop update (R266) -/

section LoopUpdate

variable {α : Type} (num : Numerics α)

/-- Before the fifth error: the error is buffered, nothing else. -/
theorem pllPush_buffers (cfg : Cfg) (e : α) {c : Channel α} (h : c.pllN + 1 ≠ pllBlock) :
    pllPush num cfg e c = { c with pllErr := memWrite c.pllErr c.pllN e, pllN := c.pllN + 1 } :=
  if_neg h

/-- At the fifth error: the statistics of the five, the two corrections, and an empty buffer. -/
theorem pllPush_updates (cfg : Cfg) (e : α) {c : Channel α} (h : c.pllN + 1 = pllBlock) :
    pllPush num cfg e c =
      let errs := memWrite c.pllErr c.pllN e
      let mean := pllMeanOf num errs
      { c with
        pllErr := errs, pllN := 0, pllMean := mean, pllVar := pllVarOf num errs
        nco := oscAdvancePhase num (pllPhase num mean)
          (oscAddFrequency num cfg (pllFrequency num mean) c.nco) } :=
  if_pos h

end LoopUpdate

@[simp] theorem exactNum_sum (xs : List ℝ) : exactNum.sum xs = xs.sum :=
  calc xs.foldl (· + ·) exactNum.zero
      = xs.foldl (· + ·) 0 := by rw [exactNum_zero]
    _ = xs.sum := List.sum_eq_foldl.symm

theorem exactNum_pllMeanOf (errs : List ℝ) : pllMeanOf exactNum errs = errs.sum / 5 := by
  simp [pllMeanOf, pllBlock]

theorem exactNum_pllVarOf (errs : List ℝ) :
    pllVarOf exactNum errs = (errs.map fun e => (e - errs.sum / 5) ^ 2).sum / 5 := by
  simp [pllVarOf, exactNum_pllMeanOf, pllBlock, sq]

/-- `FREQ_MAX · FREQ_FACTOR` is 0.0625 Hz (R4). -/
theorem exactNum_pllFrequency (mean : ℝ) : pllFrequency exactNum mean = -mean * 0.0625 := by
  simp only [pllFrequency, Numerics.freqMax, Numerics.freqFactor, exactNum_mul, exactNum_neg, exactNum_lit]
  norm_num [mul_assoc]

/-- `PHASE_MAX · PHASE_FACTOR` is `π/400` rad (R4). -/
theorem exactNum_pllPhase (mean : ℝ) : pllPhase exactNum mean = -mean * (Real.pi / 400) := by
  simp only [pllPhase, Numerics.phaseMax, Numerics.quarterPi, Numerics.phaseFactor, exactNum_mul, exactNum_neg,
    exactNum_div, exactNum_pi, exactNum_lit]
  push_cast
  ring

/-- Settles O50: R266's two cases, with its statistics and corrections over exact reals. -/
theorem exactLoopUpdate : Obligations.ExactLoopUpdate := by
  refine fun cfg e c _ => ⟨pllPush_buffers exactNum cfg e, fun hFifth => ?_⟩
  have hLast : c.pllN = 4 := Nat.succ.inj hFifth
  rw [pllPush_updates exactNum cfg e hFifth, hLast]
  simp only [exactNum_pllMeanOf, exactNum_pllVarOf, exactNum_pllFrequency, exactNum_pllPhase,
    oscAdvancePhase, oscAddFrequency, exactNum_oscIncrement, exactNum_add]

end Sys2Proof.Machine

/-! PROOFS. CodeGen: the statements of 41_codegen.md: the code registers and their period (R140 to R146), the
tabulated chips (R154), the commands that read a code (R152, R153), and the correlation with the oversampled
code (R147 to R150, R173, R174). -/

namespace Sys2Proof.Machine

open scoped ComplexConjugate

/-! ### One chip, one bin (R152, R153) -/

/-- The range check of `CG.CHIP` is R152's. -/
theorem chipLegal_iff (sat : BitVec 8) (idx : BitVec 16) :
    chipLegal sat idx = true ↔ 1 ≤ sat.toNat ∧ sat.toNat ≤ 32 ∧ idx.toNat ≤ 1022 := by
  rw [chipLegal, Bool.and_eq_true, satLegal_iff, decide_eq_true_eq, and_assoc]
  rfl

/-- The range check of `CG.SPEC` is R153's. -/
theorem binLegal_iff (cfg : Cfg) (sat : BitVec 8) (bin : BitVec 16) :
    binLegal cfg sat bin = true ↔ 1 ≤ sat.toNat ∧ sat.toNat ≤ 32 ∧ bin.toNat < cfg.n := by
  rw [binLegal, Bool.and_eq_true, satLegal_iff, decide_eq_true_eq, and_assoc]
  rfl

/-- Settles O16: with the fields in range `CG.CHIP` has one outcome; otherwise it is not well formed. -/
theorem cgChipReadsOneChip : Obligations.CgChipReadsOneChip := by
  refine fun s sat idx hRun => ⟨fun hLegal => ?legal, fun hIllegal => ?illegal⟩
  case legal =>
    exact onBlock_whenRunning_next hRun (whenLegal_legal s.toBlock ((chipLegal_iff sat idx).mpr hLegal))
  case illegal =>
    have hNot : chipLegal sat idx = false := by rwa [← Bool.not_eq_true, chipLegal_iff]
    exact exec_notWellFormed hRun hNot

/-- Settles O17: with the fields in range `CG.SPEC` has one outcome; otherwise it is not well formed. -/
theorem cgSpecReadsOneBin : Obligations.CgSpecReadsOneBin := by
  refine fun s sat bin hRun => ⟨fun hLegal => ?legal, fun hIllegal => ?illegal⟩
  case legal =>
    exact onBlock_whenRunning_next hRun (whenLegal_legal s.toBlock ((binLegal_iff s.cfg sat bin).mpr hLegal))
  case illegal =>
    have hNot : binLegal s.cfg sat bin = false := by rwa [← Bool.not_eq_true, binLegal_iff]
    exact exec_notWellFormed hRun hNot

/-! ### The registers (R140 to R143, R146) -/

/-- R142: stages 3 and 10 into stage 1. -/
theorem lfsrStep_g1 (x : BitVec 10) :
    lfsrStep { g1Init with stage := x } = { g1Init with
      stage := x.extractLsb' 0 9 ++ BitVec.ofBool (x.getLsbD 2 ^^ x.getLsbD 9) } := by
  simp [lfsrStep, lfsrXor, lfsrStage, g1Init]

/-- R143: stages 2, 3, 6, 8, 9 and 10 into stage 1, whatever the satellite. -/
theorem lfsrStep_g2 (s : Nat) (x : BitVec 10) :
    lfsrStep { g2Init s with stage := x } = { g2Init s with
      stage := x.extractLsb' 0 9 ++ BitVec.ofBool (x.getLsbD 1 ^^ x.getLsbD 2 ^^ x.getLsbD 5
        ^^ x.getLsbD 7 ^^ x.getLsbD 8 ^^ x.getLsbD 9) } := by
  simp [lfsrStep, lfsrXor, lfsrStage, g2Init]

/-- What one step makes of the ten stages; the output taps have no part in it, so that the `G2` of all
satellites step alike. -/
def stageStep (fbTaps : List Nat) (x : BitVec 10) : BitVec 10 := (lfsrStep ⟨x, fbTaps, []⟩).stage

theorem lfsrStep_iterate (k : Nat) (r : Lfsr10) :
    lfsrStep^[k] r = { r with stage := (stageStep r.fbTaps)^[k] r.stage } := by
  induction k generalizing r with
  | zero => rfl
  | succ k ih => exact ih (lfsrStep r)

/-- The registers after `k` chips have stepped `k` times (R146). -/
theorem goldRun_registers (k : Nat) (g1 g2 : Lfsr10) :
    (goldRun k g1 g2).2 = (lfsrStep^[k] g1, lfsrStep^[k] g2) := by
  induction k generalizing g1 g2 with
  | zero => rfl
  | succ k ih => exact ih (lfsrStep g1) (lfsrStep g2)

/-- The stages of `G1`, one step on. -/
def g1Step : BitVec 10 → BitVec 10 := stageStep [3, 10]

/-- The stages of `G2`, one step on. -/
def g2Step : BitVec 10 → BitVec 10 := stageStep [2, 3, 6, 8, 9, 10]

theorem g1_iterate (k : Nat) : lfsrStep^[k] g1Init = { g1Init with stage := g1Step^[k] 0x3FF#10 } :=
  lfsrStep_iterate k g1Init

theorem g2_iterate (k s : Nat) : lfsrStep^[k] (g2Init s) = { g2Init s with stage := g2Step^[k] 0x3FF#10 } :=
  lfsrStep_iterate k (g2Init s)

/-- The stages of `G1` eight steps before the end of a code. -/
theorem g1Step_iterate_1015 : g1Step^[1015] 0x3FF#10 = 0x203#10 := by decide +kernel

/-- The stages of `G2` eight steps before the end of a code. -/
theorem g2Step_iterate_1015 : g2Step^[1015] 0x3FF#10 = 0x01B#10 := by decide +kernel

theorem g1Step_period_1023 : Function.IsPeriodicPt g1Step 1023 0x3FF#10 :=
  calc g1Step^[8 + 1015] 0x3FF#10
      = g1Step^[8] 0x203#10 := by rw [Function.iterate_add_apply, g1Step_iterate_1015]
    _ = 0x3FF#10 := by decide

theorem g2Step_period_1023 : Function.IsPeriodicPt g2Step 1023 0x3FF#10 :=
  calc g2Step^[8 + 1015] 0x3FF#10
      = g2Step^[8] 0x01B#10 := by rw [Function.iterate_add_apply, g2Step_iterate_1015]
    _ = 0x3FF#10 := by decide

/-! ### The least period -/

/-- A period of which no quotient by a prime is a period is the least. -/
theorem minimalPeriod_eq_of_div_prime {β : Type} {f : β → β} {x : β} {n : Nat}
    (hPeriod : Function.IsPeriodicPt f n x)
    (hDiv : ∀ p, p.Prime → p ∣ n → ¬ Function.IsPeriodicPt f (n / p) x) :
    Function.minimalPeriod f x = n := by
  obtain ⟨a, ha⟩ := hPeriod.minimalPeriod_dvd
  by_contra hNe
  have hNeOne : a ≠ 1 := by
    rintro rfl
    exact hNe (by rw [ha, mul_one])
  have hQuotient : n / a.minFac = Function.minimalPeriod f x * (a / a.minFac) := by
    rw [← Nat.mul_div_assoc _ a.minFac_dvd, ← ha]
  refine hDiv a.minFac (Nat.minFac_prime hNeOne) (ha ▸ a.minFac_dvd.mul_left _) ?_
  rw [hQuotient, Function.isPeriodicPt_iff_minimalPeriod_dvd]
  exact dvd_mul_right ..

theorem prime_dvd_1023 {p : Nat} (hp : p.Prime) (h : p ∣ 1023) : p = 3 ∨ p = 11 ∨ p = 31 := by
  have hMem : p ∈ Nat.primeFactorsList 1023 := (Nat.mem_primeFactorsList (by decide)).mpr ⟨hp, h⟩
  simpa using hMem

/-- A state of period 1023 = 3 · 11 · 31, but not of period 341, 93 or 33, has no smaller one. -/
theorem iterate_ne_of_lt_1023 {β : Type} {f : β → β} {x : β} (hPeriod : Function.IsPeriodicPt f 1023 x)
    (h341 : f^[341] x ≠ x) (h93 : f^[93] x ≠ x) (h33 : f^[33] x ≠ x) {k : Nat} (hPos : 0 < k)
    (hLt : k < 1023) : f^[k] x ≠ x := by
  have hMinimal : Function.minimalPeriod f x = 1023 := by
    refine minimalPeriod_eq_of_div_prime hPeriod fun p hp hDvd => ?_
    rcases prime_dvd_1023 hp hDvd with rfl | rfl | rfl
    · exact h341
    · exact h93
    · exact h33
  exact Function.not_isPeriodicPt_of_pos_of_lt_minimalPeriod hPos.ne' (hMinimal.symm ▸ hLt)

theorem g1Step_iterate_ne {k : Nat} (hPos : 0 < k) (hLt : k < 1023) : g1Step^[k] 0x3FF#10 ≠ 0x3FF#10 :=
  iterate_ne_of_lt_1023 g1Step_period_1023 (by decide +kernel) (by decide +kernel) (by decide +kernel) hPos hLt

theorem g2Step_iterate_ne {k : Nat} (hPos : 0 < k) (hLt : k < 1023) : g2Step^[k] 0x3FF#10 ≠ 0x3FF#10 :=
  iterate_ne_of_lt_1023 g2Step_period_1023 (by decide +kernel) (by decide +kernel) (by decide +kernel) hPos hLt

/-- Settles O35: the period is read off the stages, which step alike for every satellite. -/
theorem registersStepWithPeriod1023 : Obligations.RegistersStepWithPeriod1023 := by
  refine fun s _ _ => ⟨fun x => ⟨lfsrStep_g1 x, lfsrStep_g2 s x⟩, ?g1, ?g2, rfl, rfl, fun k hPos hLt => ?least⟩
  case g1 =>
    rw [goldGen, goldRun_registers, codeLen, g1_iterate, g1Step_period_1023]
    rfl
  case g2 =>
    rw [goldGen, goldRun_registers, codeLen, g2_iterate, g2Step_period_1023]
    rfl
  case least =>
    rw [goldRun_registers, g1_iterate, g2_iterate]
    exact ⟨g1Step_iterate_ne hPos hLt, g2Step_iterate_ne hPos hLt⟩

/-! ### The tabulated chips (R154) -/

/-- A run of chips is one run after another, the second from where the first leaves the registers. -/
theorem goldRun_add (j k : Nat) (g1 g2 : Lfsr10) :
    (goldRun (j + k) g1 g2).1 = (goldRun j g1 g2).1 ++ (goldRun k (lfsrStep^[j] g1) (lfsrStep^[j] g2)).1 := by
  induction j generalizing g1 g2 with
  | zero => simp [goldRun]
  | succ j ih =>
    rw [Nat.succ_add]
    exact congrArg (chipOf g1 g2 :: ·) (ih (lfsrStep g1) (lfsrStep g2))

theorem goldGen_take_10 (s : Nat) : (goldGen s).1.take 10 = (goldRun 10 g1Init (g2Init s)).1 := by
  have hLen : codeLen = 10 + 1013 := rfl
  rw [goldGen, hLen, goldRun_add, List.take_left' (goldRun_length ..)]

/-- The last eight chips are a run of eight from the registers eight steps before the end. -/
theorem goldGen_drop_1015 (s : Nat) : (goldGen s).1.drop 1015
    = (goldRun 8 { g1Init with stage := 0x203#10 } { g2Init s with stage := 0x01B#10 }).1 := by
  have hLen : codeLen = 1015 + 8 := rfl
  rw [goldGen, hLen, goldRun_add, List.drop_left' (goldRun_length ..), g1_iterate, g2_iterate,
    g1Step_iterate_1015, g2Step_iterate_1015]

/-- Settles O34: only the chips of the two tables are run, the last eight from the registers before them. -/
theorem firstTenAndLastEightChips : Obligations.FirstTenAndLastEightChips := by
  refine ⟨fun s _ _ => goldGen_length s, ?firstTen, ?lastEight⟩
  case firstTen =>
    simp only [goldGen_take_10]
    decide +kernel
  case lastEight =>
    simp only [goldGen_drop_1015]
    decide +kernel

/-! ### Complex arithmetic over exact reals (R6, R7) -/

@[simp] theorem exactNum_czero : exactNum.czero = ⟨0, 0⟩ := by simp [Numerics.czero]

theorem toComplex_cadd (z w : Cx ℝ) : toComplex (exactNum.cadd z w) = toComplex z + toComplex w := rfl

theorem toComplex_cmul (z w : Cx ℝ) : toComplex (exactNum.cmul z w) = toComplex z * toComplex w := rfl

theorem toComplex_czero : toComplex exactNum.czero = 0 := by
  rw [exactNum_czero]; rfl

theorem toComplex_conj (z : Cx ℝ) : toComplex (exactNum.conj z) = conj (toComplex z) := by
  rw [exactNum_conj]; rfl

theorem toComplex_cscale (k : ℝ) (z : Cx ℝ) : toComplex (exactNum.cscale k z) = k * toComplex z := by
  simp [Numerics.cscale, toComplex, Complex.ext_iff]

theorem toComplex_cis (theta : ℝ) : toComplex (exactNum.cis theta) = Complex.exp (theta * Complex.I) := by
  rw [Complex.exp_mul_I, ← Complex.ofReal_cos, ← Complex.ofReal_sin]
  exact Complex.mk_eq_add_mul_I ..

theorem toComplex_foldl_cadd (zs : List (Cx ℝ)) (z : Cx ℝ) :
    toComplex (zs.foldl exactNum.cadd z) = toComplex z + (zs.map toComplex).sum := by
  induction zs generalizing z with
  | nil => simp
  | cons w ws ih => rw [List.foldl_cons, ih, toComplex_cadd, List.map_cons, List.sum_cons, add_assoc]

theorem toComplex_csum_range (n : Nat) (f : Nat → Cx ℝ) :
    toComplex (exactNum.csum ((List.range n).map f)) = ∑ i ∈ Finset.range n, toComplex (f i) := by
  rw [Numerics.csum, toComplex_foldl_cadd, toComplex_czero, zero_add, List.map_map]
  rfl

/-! ### The transforms over exact reals (R170, R171) -/

/-- `e^{j2π/N}`, the root of unity of the transforms. -/
noncomputable def transformRoot (n : Nat) : ℂ := Complex.exp (2 * Real.pi * Complex.I / n)

theorem transformRoot_primitive {n : Nat} (hn : 0 < n) : IsPrimitiveRoot (transformRoot n) n :=
  Complex.isPrimitiveRoot_exp n hn.ne'

theorem toComplex_cis_twiddle (n k m : Nat) :
    toComplex (exactNum.cis (twiddle exactNum n k m)) = transformRoot n ^ (k * m) := by
  rw [toComplex_cis, transformRoot, ← Complex.exp_nat_mul]
  congr 1
  simp [twiddle]
  ring

theorem conj_transformRoot (n : Nat) : conj (transformRoot n) = (transformRoot n)⁻¹ := by
  rw [transformRoot, ← Complex.exp_conj, ← Complex.exp_neg]
  simp [neg_div, Complex.conj_ofNat]

theorem toComplex_dftBin (n : Nat) (y : List (Cx ℝ)) (k : Nat) :
    toComplex (dftBin exactNum n y k)
      = ∑ m ∈ Finset.range n, toComplex (y.getD m ⟨0, 0⟩) * (transformRoot n)⁻¹ ^ (k * m) := by
  rw [dftBin, toComplex_csum_range]
  simp only [toComplex_cmul, toComplex_conj, toComplex_cis_twiddle, map_pow, conj_transformRoot, exactNum_czero]

theorem toComplex_idftBin (n : Nat) (z : List (Cx ℝ)) (m : Nat) :
    toComplex (idftBin exactNum n z m)
      = (n : ℂ)⁻¹ * ∑ k ∈ Finset.range n, toComplex (z.getD k ⟨0, 0⟩) * transformRoot n ^ (k * m) := by
  rw [idftBin, toComplex_cscale, toComplex_csum_range]
  simp only [toComplex_cmul, toComplex_cis_twiddle, exactNum_czero]
  simp [Numerics.one]

theorem conj_toComplex_dftBin (n : Nat) (x : List (Cx ℝ)) (k : Nat) :
    conj (toComplex (dftBin exactNum n x k))
      = ∑ i ∈ Finset.range n, conj (toComplex (x.getD i ⟨0, 0⟩)) * transformRoot n ^ (k * i) := by
  simp only [toComplex_dftBin, map_sum, map_mul, map_pow, map_inv₀, conj_transformRoot, inv_inv]

/-! ### The correlation theorem (R173, R174) -/

/-- The powers of an `N`-th root of unity add up to 0, unless it is 1. -/
theorem sum_transformRoot {n : Nat} (hn : 0 < n) (j : ℤ) :
    ∑ k ∈ Finset.range n, (transformRoot n ^ j) ^ k = if (n : ℤ) ∣ j then (n : ℂ) else 0 := by
  have hRoot := transformRoot_primitive hn
  split_ifs with hDvd
  · simp [(hRoot.zpow_eq_one_iff_dvd j).mpr hDvd]
  · have hNeOne : transformRoot n ^ j ≠ 1 := (hRoot.zpow_eq_one_iff_dvd j).not.mpr hDvd
    have hPow : (transformRoot n ^ j) ^ n = 1 := by
      rw [← zpow_natCast, zpow_comm, zpow_natCast, hRoot.pow_eq_one, one_zpow]
    rw [geom_sum_eq hNeOne, hPow, sub_self, zero_div]

/-- Of the frequencies that a product of transforms mixes, the inverse transform keeps those that add up to
its lag. -/
theorem sum_transformRoot_kernel {n a : Nat} (ha : a < n) (i m : Nat) :
    ∑ k ∈ Finset.range n, (transformRoot n)⁻¹ ^ (k * a) * transformRoot n ^ (k * i) * transformRoot n ^ (k * m)
      = if a = (i + m) % n then (n : ℂ) else 0 := by
  have hn : 0 < n := Nat.zero_lt_of_lt ha
  have hNe := (transformRoot_primitive hn).ne_zero hn.ne'
  have hTerm (k : Nat) : (transformRoot n)⁻¹ ^ (k * a) * transformRoot n ^ (k * i) * transformRoot n ^ (k * m)
      = (transformRoot n ^ ((i + m : Nat) - a : ℤ)) ^ k := by
    rw [zpow_sub₀ hNe, zpow_natCast, zpow_natCast, div_eq_mul_inv]
    ring
  have hDvd : (n : ℤ) ∣ (i + m : Nat) - a ↔ a = (i + m) % n := by
    rw [← Nat.modEq_iff_dvd, Nat.ModEq, Nat.mod_eq_of_lt ha]
  simp only [hTerm, sum_transformRoot hn, hDvd]

/-- The correlation theorem: the inverse transform of a product with a conjugate transform is a circular
correlation. -/
theorem inverse_transform_product {n : Nat} (hn : 0 < n) (f g : Nat → ℂ) (m : Nat) :
    (n : ℂ)⁻¹ * ∑ k ∈ Finset.range n,
        (∑ a ∈ Finset.range n, f a * (transformRoot n)⁻¹ ^ (k * a))
          * (∑ i ∈ Finset.range n, g i * transformRoot n ^ (k * i)) * transformRoot n ^ (k * m)
      = ∑ i ∈ Finset.range n, f ((i + m) % n) * g i := by
  have hNe : (n : ℂ) ≠ 0 := Nat.cast_ne_zero.mpr hn.ne'
  have hInner (i : Nat) : ∑ a ∈ Finset.range n, f a * g i * (if a = (i + m) % n then (n : ℂ) else 0)
      = n * (f ((i + m) % n) * g i) := by
    simp [Nat.mod_lt _ hn, mul_comm]
  calc _ = (n : ℂ)⁻¹ * ∑ k ∈ Finset.range n, ∑ a ∈ Finset.range n, ∑ i ∈ Finset.range n, f a * g i
          * ((transformRoot n)⁻¹ ^ (k * a) * transformRoot n ^ (k * i) * transformRoot n ^ (k * m)) := by
        congr 1
        refine Finset.sum_congr rfl fun k _ => ?_
        rw [Finset.sum_mul_sum, Finset.sum_mul]
        refine Finset.sum_congr rfl fun a _ => ?_
        rw [Finset.sum_mul]
        exact Finset.sum_congr rfl fun i _ => by ring
    _ = (n : ℂ)⁻¹ * ∑ i ∈ Finset.range n, ∑ a ∈ Finset.range n, f a * g i
          * ∑ k ∈ Finset.range n,
            (transformRoot n)⁻¹ ^ (k * a) * transformRoot n ^ (k * i) * transformRoot n ^ (k * m) := by
        simp only [Finset.mul_sum]
        rw [Finset.sum_comm_cycle]
        exact Finset.sum_congr rfl fun i _ => Finset.sum_comm
    _ = (n : ℂ)⁻¹ * ∑ i ∈ Finset.range n, n * (f ((i + m) % n) * g i) := by
        congr 1
        refine Finset.sum_congr rfl fun i _ => ?_
        rw [← hInner]
        exact Finset.sum_congr rfl fun a ha => by rw [sum_transformRoot_kernel (Finset.mem_range.mp ha)]
    _ = _ := by rw [← Finset.mul_sum, inv_mul_cancel_left₀ hNe]

theorem getD_map_range {β : Type} (f : Nat → β) (d : β) {n k : Nat} (hk : k < n) :
    ((List.range n).map f).getD k d = f k := by
  simp [List.getD_eq_getElem?_getD, hk]

/-- A bin of the product with the conjugate of another sequence's transform (R150, R172). -/
theorem toComplex_mulSpectrum_conj {n k : Nat} (hk : k < n) (x y : List (Cx ℝ)) :
    toComplex ((mulSpectrum exactNum n (dft exactNum n y) ((dft exactNum n x).map exactNum.conj)).getD k ⟨0, 0⟩)
      = toComplex (dftBin exactNum n y k) * conj (toComplex (dftBin exactNum n x k)) := by
  rw [mulSpectrum, getD_map_range _ _ hk, toComplex_cmul, dft, dft, List.map_map, getD_map_range _ _ hk,
    getD_map_range _ _ hk, Function.comp_apply, toComplex_conj]

/-- R174 of any two sequences: correlating against the conjugate spectrum is circular correlation. -/
theorem toComplex_corr {n m : Nat} (hm : m < n) (x y : List (Cx ℝ)) :
    toComplex ((corr exactNum n ((dft exactNum n x).map exactNum.conj) y).getD m ⟨0, 0⟩)
      = ∑ i ∈ Finset.range n,
          toComplex (y.getD ((i + m) % n) ⟨0, 0⟩) * conj (toComplex (x.getD i ⟨0, 0⟩)) := by
  have hn : 0 < n := Nat.zero_lt_of_lt hm
  rw [corr, idft, getD_map_range _ _ hm, toComplex_idftBin,
    ← inverse_transform_product hn (fun a => toComplex (y.getD a ⟨0, 0⟩))
      (fun i => conj (toComplex (x.getD i ⟨0, 0⟩)))]
  congr 1
  refine Finset.sum_congr rfl fun k hk => ?_
  rw [toComplex_mulSpectrum_conj (Finset.mem_range.mp hk), conj_toComplex_dftBin, toComplex_dftBin]

/-! ### The oversampled code (R147, R148) -/

/-- `pm` over exact reals (R147). -/
theorem exactNum_pm (chip : Bool) : pm exactNum chip = if chip = true then -1 else 1 := by
  cases chip <;> simp [pm]

theorem oversample_getElem? {cfg : Cfg} {i : Nat} (code : List Bool) (hi : i < cfg.n) :
    (oversample exactNum cfg code)[i]? = some ⟨pm exactNum (code.getD (i / cfg.spc) false), 0⟩ := by
  simp [oversample, hi]

/-- The oversampled code is real, so conjugation leaves it alone. -/
theorem conj_oversample {cfg : Cfg} {i : Nat} (code : List Bool) (hi : i < cfg.n) :
    conj (toComplex ((oversample exactNum cfg code).getD i ⟨0, 0⟩))
      = toComplex ((oversample exactNum cfg code).getD i ⟨0, 0⟩) := by
  rw [List.getD_eq_getElem?_getD, oversample_getElem? code hi]
  exact Complex.conj_ofReal _

/-- Sample `j · SPC + k` is that of chip `j` (R148). -/
theorem oversample_chip {cfg : Cfg} {code : List Bool} {j k : Nat} {chip : Bool} (hj : j < 1023)
    (hk : k < cfg.spc) (hChip : code[j]? = some chip) :
    (oversample exactNum cfg code)[j * cfg.spc + k]? = some ⟨if chip = true then -1 else 1, 0⟩ := by
  have hLt : j * cfg.spc + k < cfg.n :=
    calc j * cfg.spc + k < (j + 1) * cfg.spc := by rw [Nat.succ_mul]; omega
      _ ≤ 1023 * cfg.spc := Nat.mul_le_mul_right _ hj
  have hIndex : (j * cfg.spc + k) / cfg.spc = j := by
    rw [Nat.mul_comm, Nat.mul_add_div (Nat.zero_lt_of_lt hk), Nat.div_eq_of_lt hk, Nat.add_zero]
  rw [oversample_getElem? code hLt, hIndex, List.getD_eq_getElem?_getD, hChip, Option.getD_some, exactNum_pm]

/-- Settles O32: the correlation theorem at the oversampled code, which is real. -/
theorem correlationClosedForm : Obligations.CorrelationClosedForm := by
  refine ⟨fun cfg code y m _ hLength hm => ?correlation,
    fun cfg code => ⟨oversample_length exactNum cfg code, fun j k chip => oversample_chip⟩⟩
  case correlation =>
    rw [codeSpectrum, toComplex_corr hm, circularCorrelation, hLength]
    refine Finset.sum_congr rfl fun i hi => ?_
    have hLt := Finset.mem_range.mp hi
    rw [conj_oversample code hLt, cyclic, cyclic, hLength, oversample_length, Nat.mod_eq_of_lt hLt]

end Sys2Proof.Machine

/-! PROOFS. Correlator: the statements of 42_correlator.md: the transforms as sums and their inversion (R170,
R171), the signed offset (R176, R177), and the delivered sample and completed period of a channel that
measure it (R221 to R226, R229). -/

namespace Sys2Proof.Machine

/-! ### The transforms (R170, R171) -/

/-- The root's powers in the exponential form of R170 and R171. -/
theorem transformRoot_pow (n k m : Nat) :
    transformRoot n ^ (k * m) = Complex.exp ((2 * Real.pi * k * m / n : ℝ) * Complex.I) := by
  rw [← toComplex_cis_twiddle, toComplex_cis]
  simp [twiddle, mul_assoc]

theorem transformRoot_inv_pow (n k m : Nat) :
    (transformRoot n)⁻¹ ^ (k * m) = Complex.exp (-(2 * Real.pi * k * m / n : ℝ) * Complex.I) := by
  rw [inv_pow, transformRoot_pow, ← Complex.exp_neg, neg_mul]

theorem toComplex_injective : Function.Injective toComplex := by
  rintro ⟨a, b⟩ ⟨c, d⟩ h
  obtain ⟨rfl, rfl⟩ := Complex.mk.inj h
  rfl

/-- Inversion is the correlation theorem at the unit impulse, whose transform is 1 in every bin. -/
theorem idftBin_dft {n m : Nat} (hm : m < n) (y : List (Cx ℝ)) :
    idftBin exactNum n (dft exactNum n y) m = y.getD m ⟨0, 0⟩ := by
  have hn : 0 < n := Nat.zero_lt_of_lt hm
  have hImpulse := inverse_transform_product hn (fun a => toComplex (y.getD a ⟨0, 0⟩))
    (fun i => if i = 0 then 1 else 0) m
  have hBin (k : Nat) (hk : k ∈ Finset.range n) :
      toComplex ((dft exactNum n y).getD k ⟨0, 0⟩) = toComplex (dftBin exactNum n y k) := by
    rw [dft, getD_map_range _ _ (Finset.mem_range.mp hk)]
  apply toComplex_injective
  rw [toComplex_idftBin, Finset.sum_congr rfl fun k hk => by rw [hBin k hk, toComplex_dftBin]]
  simpa [hn, Nat.mod_eq_of_lt hm] using hImpulse

theorem idft_dft {n : Nat} {y : List (Cx ℝ)} (hLength : y.length = n) :
    idft exactNum n (dft exactNum n y) = y := by
  refine List.ext_getElem (by simp [hLength]) fun m _ hm => ?_
  simp [idft, idftBin_dft (hLength ▸ hm), hm]

/-- Settles O31: both sums are in powers of one root of unity, and inversion goes sample by sample. -/
theorem transformsAreInverse : Obligations.TransformsAreInverse := by
  refine ⟨fun n y k _ => ?forward, fun n z m _ => ?inverse, fun n y _ hLength => idft_dft hLength⟩
  case forward => simp only [toComplex_dftBin, transformRoot_inv_pow]
  case inverse => simp only [toComplex_idftBin, transformRoot_pow, one_div]

/-! ### The signed offset (R176, R177) -/

theorem signedOffset_of_le {n m : Nat} (h : 2 * m ≤ n) : signedOffset n m = m := if_pos h

theorem signedOffset_of_lt {n m : Nat} (h : n < 2 * m) : signedOffset n m = (m : Int) - n :=
  if_neg h.not_ge

theorem offsetValid_iff (spc : Nat) (o : Int) : offsetValid spc o = true ↔ 4 * |o| ≤ (spc : Int) := by
  rw [offsetValid, decide_eq_true_eq, Int.abs_eq_natAbs]
  omega

/-- Settles O33: one equation per half of the period, the bounds of every index, and the quarter chip. -/
theorem signedOffsetAndValidity : Obligations.SignedOffsetAndValidity :=
  ⟨fun _ _ hm => ⟨signedOffset_of_le, signedOffset_of_lt, signedOffset_bounds hm⟩, offsetValid_iff⟩

/-! ### One delivered sample, one complete period (R221 to R226, R229) -/

section Feed

variable {α : Type} (num : Numerics α) (cfg : Cfg) (spec : List (Cx α)) (s : Nat) (x : Cx α) {c : Channel α}

/-- The channel after a sample is mixed with one oscillator output and stored at the fill of its buffer
(R222, R223). -/
def storeSample (c : Channel α) : Channel α :=
  { c with
    nco := oscAdvance num c.nco
    buf := memWrite c.buf c.fill (mix num c.nco x)
    fill := c.fill + 1 }

theorem chFeed_of_dead (hDead : c.alive = false) : chFeed num cfg spec s x c = quiet c := by
  simp [chFeed, hDead]

theorem chFeed_of_skip (hAlive : c.alive = true) (hSkip : 0 < c.skip) :
    chFeed num cfg spec s x c = quiet { c with nco := oscAdvance num c.nco, skip := c.skip - 1 } := by
  simp [chFeed, hAlive, hSkip]

/-- With nothing left to skip the sample is stored, and the last of its period completes it. -/
theorem chFeed_of_store (hAlive : c.alive = true) (hSkip : c.skip = 0) :
    chFeed num cfg spec s x c =
      if c.fill + 1 = cfg.n then chPeriod num cfg spec s (storeSample num x c)
      else quiet (storeSample num x c) := by
  simp [chFeed, storeSample, hAlive, hSkip]

theorem andThen_quiet (t : Tracked α) (f : Channel α → Channel α) :
    (t.andThen fun c => quiet (f c)) = ⟨f t.ch, t.evs⟩ := by
  simp [Tracked.andThen]

end Feed

/-- Settles O42: an equation of `chFeed` per case, and the events of a period are its state machine's. -/
theorem channelFeedFollowsRule : Obligations.ChannelFeedFollowsRule := by
  refine fun α num cfg spec s x c => ⟨?dead, ?skipped, ?stored, ?completed, ?period⟩
  case dead => exact chFeed_of_dead num cfg spec s x
  case skipped => exact chFeed_of_skip num cfg spec s x
  case stored =>
    intro hAlive hSkip hPartial
    rw [chFeed_of_store num cfg spec s x hAlive hSkip, if_neg hPartial]
    rfl
  case completed =>
    intro hAlive hSkip hFull
    rw [chFeed_of_store num cfg spec s x hAlive hSkip, if_pos hFull]
    rfl
  case period => exact andThen_quiet ..

end Sys2Proof.Machine

/-! PROOFS. Acquisition: the statements of 43_acquisition.md: the detection ratio (R198), the sweep over its
hypotheses (R194 to R197, R200), its completion (R201), and the block boundary that polls it (R343, R389). -/

namespace Sys2Proof.Machine

/-! ### The detection ratio over exact reals (R198) -/

/-- `maximum` is an element of the sequence that no other exceeds. -/
theorem exactNum_maximum {acc : List ℝ} (h : acc ≠ []) :
    exactNum.maximum acc ∈ acc ∧ ∀ x ∈ acc, x ≤ exactNum.maximum acc := by
  cases acc with
  | nil => exact absurd rfl h
  | cons y ys =>
    have hStep (m x : ℝ) : (if exactNum.lt m x then x else m) = max m x := by
      simp [max_def_lt]
    have hFold : exactNum.maximum (y :: ys) = ys.foldl max y := by
      simp only [Numerics.maximum, hStep]
    rw [hFold]
    exact List.max?_eq_some_iff.mp List.max?_cons'

theorem exactNum_accMean (n : Nat) (acc : List ℝ) : accMean exactNum n acc = 1 / (n : ℝ) * acc.sum := by
  simp [accMean, Numerics.one]

theorem accRatio_of_mean_zero {n : Nat} {acc : List ℝ} (h : accMean exactNum n acc = 0) :
    accRatio exactNum n acc = 0 := by
  simp [accRatio, h]

theorem accRatio_of_mean_pos {n : Nat} {acc : List ℝ} (h : 0 < accMean exactNum n acc) :
    accRatio exactNum n acc = exactNum.maximum acc / accMean exactNum n acc := by
  simp [accRatio, h]

/-- The mean of a sequence is at most its peak, and the peak of nonnegative magnitudes at most their sum. -/
theorem mean_le_peak_le_sum {acc : List ℝ} {peak : ℝ} (h : acc ≠ []) (hNonneg : ∀ x ∈ acc, 0 ≤ x)
    (hMem : peak ∈ acc) (hMax : ∀ x ∈ acc, x ≤ peak) :
    1 / (acc.length : ℝ) * acc.sum ≤ peak ∧ peak ≤ acc.length * (1 / (acc.length : ℝ) * acc.sum) := by
  have hLength : (0 : ℝ) < acc.length := by exact_mod_cast List.length_pos_iff.mpr h
  have hUpper : acc.sum ≤ acc.length * peak := by
    simpa using acc.sum_le_card_nsmul peak hMax
  have hPeak : peak ≤ acc.sum := List.single_le_sum hNonneg peak hMem
  constructor
  · rwa [one_div_mul_eq_div, div_le_iff₀' hLength]
  · rwa [one_div_mul_eq_div, mul_div_cancel₀ _ hLength.ne']

/-- Settles O37: the two branches of the ratio, and the bounds of a peak by its mean. -/
theorem exactDetectionRatio : Obligations.ExactDetectionRatio := by
  intro acc hSome hNonneg
  dsimp only
  rw [← exactNum_accMean]
  refine ⟨accRatio_of_mean_zero, fun hPos => ?_⟩
  obtain ⟨hMem, hMax⟩ := exactNum_maximum hSome
  obtain ⟨hLow, hHigh⟩ := mean_le_peak_le_sum hSome hNonneg hMem hMax
  rw [← exactNum_accMean] at hLow hHigh
  have hRatio := accRatio_of_mean_pos hPos
  refine ⟨_, hMem, hMax, hRatio, ?_, ?_⟩ <;> rw [hRatio]
  · rwa [one_le_div hPos]
  · rwa [div_le_iff₀ hPos]

/-! ### The hypotheses of a sweep and their magnitudes (R194, R195, R197) -/

theorem hypothesis_eq (cfg : Cfg) (h : Nat) : cfg.hypothesis h = -(cfg.fSearchMax : Int) + 50 * h := by
  simp only [Cfg.hypothesis, fStep]
  omega

section Sweep

variable {α : Type} (num : Numerics α)

/-- Sample `i` of a run is mixed with output `i` of the oscillator (R121, R126). -/
theorem mixAll_eq_zipIdx (o : Osc α) (xs : List (Cx α)) :
    (mixAll num o xs).1 = xs.zipIdx.map fun p => mix num (oscAdvanceN num p.2 o) p.1 := by
  induction xs generalizing o with
  | nil => rfl
  | cons x xs ih =>
    have hTail : (xs.zipIdx 1).map (fun p => mix num (oscAdvanceN num p.2 o) p.1)
        = xs.zipIdx.map fun p => mix num (oscAdvanceN num p.2 (oscAdvance num o)) p.1 := by
      rw [List.zipIdx_succ, List.map_map]
      rfl
    rw [List.zipIdx_cons, List.map_cons, hTail, ← ih]
    rfl

/-- Sequences indexed by the same lags, added up element by element. -/
theorem foldl_zipWith_add_range (n : Nat) (f : Nat → α) (g : Nat → Nat → α) (es : List Nat) :
    es.foldl (fun acc e => List.zipWith num.add acc ((List.range n).map fun m => g m e)) ((List.range n).map f)
      = (List.range n).map fun m => (es.map (g m)).foldl num.add (f m) := by
  induction es generalizing f with
  | nil => rfl
  | cons e es ih =>
    rw [List.foldl_cons, List.zipWith_map, List.zipWith_self, ih]
    rfl

/-- The magnitudes of a correlation waveform, lag by lag (R173). -/
theorem corr_map_mag (n : Nat) (spec y : List (Cx α)) :
    (corr num n spec y).map num.mag
      = (List.range n).map fun m => num.mag ((corr num n spec y).getD m num.czero) := by
  have hLag (m : Nat) (hm : m ∈ List.range n) :
      num.mag (idftBin num n (mulSpectrum num n (dft num n y) spec) m)
        = num.mag ((corr num n spec y).getD m num.czero) :=
    congrArg num.mag (getD_map_range _ _ (List.mem_range.mp hm)).symm
  rw [← List.map_congr_left hLag, corr, idft, List.map_map]
  rfl

/-- R197, lag by lag. -/
theorem accumulate_eq (cfg : Cfg) (spec d : List (Cx α)) :
    accumulate num cfg spec d = (List.range cfg.n).map fun m =>
      ((List.range cfg.nEpochs).map fun e =>
        num.mag ((corr num cfg.n spec (epoch cfg d e)).getD m num.czero)).foldl num.add num.zero := by
  have hStart : List.replicate cfg.n num.zero = (List.range cfg.n).map fun _ => num.zero := by simp
  simp only [accumulate, corr_map_mag, hStart]
  exact foldl_zipWith_add_range num cfg.n _
    (fun m e => num.mag ((corr num cfg.n spec (epoch cfg d e)).getD m num.czero)) _

/-- The detection ratio of one hypothesis for one satellite (R195 to R198). -/
def hypothesisRatio (cfg : Cfg) (spec capture : List (Cx α)) (h : Nat) : α :=
  accRatio num cfg.n (accumulate num cfg spec (downConvert num cfg capture h).1)

/-- What the sweep holds when hypothesis `h` is the best so far (R196). -/
def bestAt (cfg : Cfg) (spec capture : List (Cx α)) (h : Nat) : Best α :=
  ⟨hypothesisRatio num cfg spec capture h, num.ofInt (cfg.hypothesis h), true⟩

theorem bestStep_first (cfg : Cfg) (spec capture : List (Cx α)) {best : Best α} (h : Nat)
    (hNone : best.have' = false) : bestStep num cfg spec capture best h = bestAt num cfg spec capture h := by
  simp [bestStep, bestAt, hypothesisRatio, hNone]

/-- A later hypothesis is kept exactly when its ratio is greater (R196, R200). -/
theorem bestStep_bestAt (cfg : Cfg) (spec capture : List (Cx α)) (j h : Nat) :
    bestStep num cfg spec capture (bestAt num cfg spec capture j) h =
      if num.lt (hypothesisRatio num cfg spec capture j) (hypothesisRatio num cfg spec capture h) = true
      then bestAt num cfg spec capture h else bestAt num cfg spec capture j := rfl

end Sweep

/-! ### The first maximum over the hypotheses (R196, R200) -/

/-- Over exact reals the search keeps the first maximum of the hypotheses it has passed. -/
theorem sweep_keeps_leastMaximum (cfg : Cfg) (spec capture : List (Cx ℝ)) (k : Nat) :
    ∃ j, IsLeastMaximum ((List.range (k + 1)).map (hypothesisRatio exactNum cfg spec capture)) j
      ∧ (List.range (k + 1)).foldl (bestStep exactNum cfg spec capture) ⟨exactNum.zero, exactNum.zero, false⟩
        = bestAt exactNum cfg spec capture j := by
  induction k with
  | zero =>
    exact ⟨0, isLeastMaximum_singleton _,
      bestStep_first exactNum cfg spec capture (best := ⟨exactNum.zero, exactNum.zero, false⟩) 0 rfl⟩
  | succ k ih =>
    obtain ⟨j, hLeast, hFold⟩ := ih
    have hLt : j < k + 1 := by simpa using hLeast.lt_length
    have hBest : ((List.range (k + 1)).map (hypothesisRatio exactNum cfg spec capture)).getD j 0
        = hypothesisRatio exactNum cfg spec capture j := getD_map_range _ _ hLt
    rw [List.range_succ, List.map_append, List.foldl_append, hFold, List.foldl_cons, List.foldl_nil,
      bestStep_bestAt]
    split_ifs with hGreater
    · have hNew := hLeast.append_of_lt (hBest ▸ of_decide_eq_true hGreater)
      exact ⟨k + 1, by simpa using hNew, rfl⟩
    · have hKept := hLeast.append_of_le (hBest ▸ not_lt.mp fun hLess => hGreater (decide_eq_true hLess))
      exact ⟨j, hKept, rfl⟩

/-- The sweep answers the hypothesis that `argmax` finds among the ratios. -/
theorem sweepSat_eq_bestAt_argmax (cfg : Cfg) (spec capture : List (Cx ℝ)) :
    let ratios := (List.range cfg.hypotheses).map (hypothesisRatio exactNum cfg spec capture)
    exactNum.argmax ratios < cfg.hypotheses
      ∧ sweepSat exactNum cfg spec capture = bestAt exactNum cfg spec capture (exactNum.argmax ratios) := by
  intro ratios
  obtain ⟨j, hLeast, hFold⟩ :=
    sweep_keeps_leastMaximum cfg spec capture (2 * cfg.fSearchMax / fStep)
  have hSome : ratios ≠ [] := List.ne_nil_of_length_pos (Nat.zero_lt_of_lt hLeast.lt_length)
  have hArgmax := argmax_isLeastMaximum hSome
  have hSame : exactNum.argmax ratios = j :=
    le_antisymm (hArgmax.le_of_is_max hLeast.is_max) (hLeast.le_of_is_max hArgmax.is_max)
  exact ⟨by simpa [ratios] using hArgmax.lt_length, hSame ▸ hFold⟩

/-- Settles O38: the mixing and the accumulation index by index, and the search's first maximum, which is the
one `argmax` finds. -/
theorem sweepTriesHypothesesKeepsFirstMaximum : Obligations.SweepTriesHypothesesKeepsFirstMaximum := by
  refine ⟨fun cfg => ⟨rfl, hypothesis_eq cfg⟩, fun α num cfg capture h => ?mixed,
    fun α num cfg spec d => accumulate_eq num cfg spec d, fun cfg spec capture => ?best⟩
  case mixed =>
    dsimp only
    rw [← hypothesis_eq]
    exact mixAll_eq_zipIdx num (trialOsc num cfg h) capture
  case best =>
    obtain ⟨hLt, hSweep⟩ := sweepSat_eq_bestAt_argmax cfg spec capture
    have hRatio := getD_map_range (hypothesisRatio exactNum cfg spec capture) 0 hLt
    exact ⟨(congrArg Best.ratio hSweep).trans hRatio.symm,
      (congrArg Best.freq hSweep).trans (exactNum_ofInt _)⟩

/-! ### The completion of a sweep (R201) -/

section Completion

variable {α : Type} (num : Numerics α) {b : Block α}

/-- The poll of a sweep in flight: the sweep and its report, or one more boundary waited. -/
theorem acqPoll_searching (hSearch : b.acq.state = .searching) :
    acqPoll num b =
      if sweepComplete b = true then acqReport num (acqSweep num { b with draws := drawsAfter b })
      else { b with draws := drawsAfter b, acq := { b.acq with wait := b.acq.wait + 1 } } := by
  have hNoResults : b.acq.state ≠ .resultsReady := by simp [hSearch]
  rcases acqPoll_cases num hNoResults with ⟨hIdle, -⟩ | ⟨-, hDone, hPoll⟩ | ⟨-, hDone, hPoll⟩
  · exact absurd hSearch hIdle
  · rw [hPoll, if_pos hDone]
  · rw [hPoll, if_neg (by simp [hDone])]

theorem sweepComplete_latency {l : Nat} (h : b.cfg.sweepLatency = some l) :
    sweepComplete b = true ↔ l ≤ b.acq.wait := by
  simp [sweepComplete, h]

theorem sweepComplete_draw (h : b.cfg.sweepLatency = none) : sweepComplete b = sweepDone b.draws := by
  simp [sweepComplete, h]

theorem drawsAfter_latency {l : Nat} (h : b.cfg.sweepLatency = some l) : drawsAfter b = b.draws := by
  simp [drawsAfter, h]

theorem drawsAfter_draw (h : b.cfg.sweepLatency = none) : drawsAfter b = b.draws + 1 := by
  simp [drawsAfter, h]

end Completion

/-- A run of draws that answer "not done" only lengthens. -/
theorem drawTally_of_notDone {n : Nat} (h : ∀ m, n ≤ m → sweepDone m = false) (k : Nat) :
    drawTally (n + k) = ((drawTally n).1, (drawTally n).2 + k) := by
  induction k with
  | zero => rfl
  | succ k ih =>
    have hStep := drawTally_notDone (h (n + k) (Nat.le_add_right n k))
    rw [ih] at hStep
    exact hStep

/-- R201's fairness: a run of "not done" ends when it reaches its free length. -/
theorem exists_sweepDone (n : Nat) : ∃ m, n ≤ m ∧ sweepDone m = true := by
  by_contra hNever
  have hNotDone (m : Nat) (hm : n ≤ m) : sweepDone m = false :=
    Bool.eq_false_of_not_eq_true fun hDone => hNever ⟨m, hm, hDone⟩
  let k := Config.notDoneDraws (drawTally n).1
  have hLong : sweepDone (n + k) = true := by
    simp only [sweepDone, drawTally_of_notDone hNotDone k]
    exact decide_eq_true (Nat.le_add_left ..)
  exact absurd (hNotDone (n + k) (Nat.le_add_right n k)) (by simp [hLong])

/-- Settles O40: the poll of a sweep in flight, with either reading of its completion, and the draws'
fairness. -/
theorem sweepCompletesByLatency : Obligations.SweepCompletesByLatency := by
  refine ⟨fun α num b hSearch => ⟨fun l hLatency => ?latency, fun hNone => ?draw⟩, exists_sweepDone⟩
  case latency =>
    rw [acqPoll_searching num hSearch, drawsAfter_latency hLatency]
    exact if_congr (sweepComplete_latency hLatency) rfl rfl
  case draw => rw [acqPoll_searching num hSearch, sweepComplete_draw hNone, drawsAfter_draw hNone]

end Sys2Proof.Machine

/-! PROOFS. Boundary: the block boundary of 47_dispatcher_host.md (R343, R349, R389) with the poll and the
report of 43_acquisition.md (R201 to R203). -/

namespace Sys2Proof.Machine

/-! ### Operations on all slots, slot by slot (R389) -/

section Slots

variable {α : Type} (num : Numerics α)

/-- Satellite `i + 1` stands at position `i`: an operation on all slots, as lists over the positions. -/
theorem forSlots_eq_zipIdx (f : Nat → Channel α → Tracked α) (k : Nat) (cs : List (Channel α)) :
    forSlots f (k + 1) cs =
      ((cs.zipIdx k).map fun p => (f (p.2 + 1) p.1).ch,
        (cs.zipIdx k).flatMap fun p => (f (p.2 + 1) p.1).evs) := by
  induction cs generalizing k with
  | nil => rfl
  | cons c cs ih =>
    rw [forSlots, ih, List.zipIdx_cons]
    rfl

/-- A slot after the liveness poll: active only while alive (R349). -/
def keepAlive (c : Channel α) : Channel α := { c with active := c.active && c.alive }

theorem livenessPoll_eq (s : Nat) (c : Channel α) :
    livenessPoll s c =
      ⟨keepAlive c, if c.active = true ∧ c.alive = false then [.satDel s] else []⟩ := by
  by_cases hLost : c.active = true ∧ c.alive = false
  · simp [livenessPoll, keepAlive, hLost]
  · have hSame : (c.active && c.alive) = c.active := by
      simpa [Bool.and_eq_left_iff_imp] using hLost
    rw [if_neg hLost, keepAlive, hSame]
    exact if_neg (by simpa using hLost)

/-- The slots once the block is delivered to them (R343 step 1). -/
def deliveredSlots (b : Block α) : List (Channel α) :=
  b.ch.zipIdx.map fun p => (deliver num b (p.2 + 1) p.1).ch

@[simp] theorem deliveredSlots_length (b : Block α) : (deliveredSlots num b).length = b.ch.length := by
  simp [deliveredSlots]

/-- The block once it is delivered and the liveness of its slots is polled (R343 steps 1 and 2). -/
def polledBlock (b : Block α) : Block α := onSlots livenessPoll (onSlots (deliver num b) b)

theorem onSlots_deliver_ch (b : Block α) : (onSlots (deliver num b) b).ch = deliveredSlots num b :=
  congrArg Prod.fst (forSlots_eq_zipIdx (deliver num b) 0 b.ch)

theorem polledBlock_ch_getElem? (b : Block α) (i : Nat) :
    (polledBlock num b).ch[i]? = ((deliveredSlots num b)[i]?).map keepAlive := by
  rw [polledBlock, onSlots_ch, forSlots_getElem?, onSlots_deliver_ch]
  simp only [livenessPoll_eq]

@[simp] theorem polledBlock_ch_length (b : Block α) : (polledBlock num b).ch.length = b.ch.length := by
  simp [polledBlock]

theorem polledBlock_evOut (b : Block α) :
    (polledBlock num b).evOut =
      b.evOut ++ (b.ch.zipIdx.flatMap fun p => (deliver num b (p.2 + 1) p.1).evs)
        ++ (deliveredSlots num b).zipIdx.flatMap fun p =>
          if p.1.active = true ∧ p.1.alive = false then [.satDel (p.2 + 1)] else [] := by
  have hDelivered : (forSlots (deliver num b) 1 b.ch).2
      = b.ch.zipIdx.flatMap fun p => (deliver num b (p.2 + 1) p.1).evs :=
    congrArg Prod.snd (forSlots_eq_zipIdx (deliver num b) 0 b.ch)
  have hPolled (cs : List (Channel α)) : (forSlots livenessPoll 1 cs).2 = cs.zipIdx.flatMap fun p =>
      if p.1.active = true ∧ p.1.alive = false then [.satDel (p.2 + 1)] else [] := by
    simpa only [livenessPoll_eq] using congrArg Prod.snd (forSlots_eq_zipIdx livenessPoll 0 cs)
  rw [polledBlock, onSlots_evOut, hPolled, onSlots_deliver_ch, onSlots_evOut, hDelivered]

end Slots

/-! ### The events of a report (R202, R203, R389) -/

section ReportEvents

variable {α : Type} (num : Numerics α)

/-- The events that report one found satellite (R202, R203). -/
def resultEvents (promoted : Bool) (x : Found α) : List (Event α) :=
  .acqResult x.sat promoted x.ratio x.freq :: if promoted = true then [.satAdd x.sat] else []

theorem reportOne_evOut (b : Block α) (x : Found α) :
    (reportOne num b x).evOut = b.evOut ++ resultEvents (!(channelAt num b x.sat).active) x := by
  simp only [reportOne]
  split_ifs with hPromoted <;> simp [resultEvents, hPromoted, acqPromote]

@[simp] theorem reportOne_draws (b : Block α) (x : Found α) : (reportOne num b x).draws = b.draws := by
  simp only [reportOne]
  split_ifs <;> rfl

@[simp] theorem reportAll_draws (xs : List (Found α)) (b : Block α) :
    (xs.foldl (reportOne num) b).draws = b.draws := by
  induction xs generalizing b with
  | nil => rfl
  | cons x xs ih => rw [List.foldl_cons, ih, reportOne_draws]

@[simp] theorem acqReport_draws (b : Block α) : (acqReport num b).draws = b.draws := by
  simp [acqReport]

/-- The report of one satellite leaves what another's slot answers. -/
theorem channelAt_reportOne_other (b : Block α) (x : Found α) {s : Nat} (h : x.sat - 1 ≠ s - 1) :
    channelAt num (reportOne num b x) s = channelAt num b s := by
  simp only [channelAt, List.getD_eq_getElem?_getD, reportOne_ch_other num b x h, reportOne_cfg]

/-- In an ascending report whether a satellite is promoted can be read off the slots before the report. -/
theorem reportAll_evOut {xs : List (Found α)} (b : Block α) (hSats : ∀ x ∈ xs, 1 ≤ x.sat)
    (hAscending : xs.Pairwise fun x y => x.sat < y.sat) :
    (xs.foldl (reportOne num) b).evOut =
      b.evOut ++ xs.flatMap fun x => resultEvents (!(channelAt num b x.sat).active) x := by
  induction xs generalizing b with
  | nil => simp
  | cons x xs ih =>
    obtain ⟨hLow, hTailSats⟩ := List.forall_mem_cons.mp hSats
    obtain ⟨hBelow, hTail⟩ := List.pairwise_cons.mp hAscending
    have hSame (y : Found α) (hy : y ∈ xs) :
        resultEvents (!(channelAt num (reportOne num b x) y.sat).active) y
          = resultEvents (!(channelAt num b y.sat).active) y := by
      have hLt := hBelow y hy
      rw [channelAt_reportOne_other num b x (by omega)]
    rw [List.foldl_cons, ih _ hTailSats hTail, List.flatMap_congr hSame, reportOne_evOut, List.flatMap_cons,
      List.append_assoc]

theorem acqReport_evOut {b : Block α} (hSats : ∀ x ∈ b.acq.found, 1 ≤ x.sat)
    (hAscending : b.acq.found.Pairwise fun x y => x.sat < y.sat) :
    (acqReport num b).evOut =
      b.evOut ++ .acqDone b.acq.found.length ::
        b.acq.found.flatMap fun x => resultEvents (!(channelAt num b x.sat).active) x := by
  have hAll := reportAll_evOut num (emit (.acqDone b.acq.found.length) b) hSats hAscending
  rw [emit_evOut, List.append_assoc, List.singleton_append] at hAll
  exact hAll

end ReportEvents

/-! ### The boundary, with a report and without one (R343) -/

section Boundary

variable {α : Type} (num : Numerics α) {b : Block α}

/-- A sweep in flight is found complete at this boundary's poll (R201). -/
def SweepReported (b : Block α) : Prop := b.acq.state = .searching ∧ sweepComplete b = true

/-- The block whose sweep is about to be reported: its slots polled, its draw taken, its sweep run. -/
def sweptBlock (b : Block α) : Block α := acqSweep num { polledBlock num b with draws := drawsAfter b }

theorem blockDone_of_poll {b' : Block α} (hPoll : acqPoll num (polledBlock num b) = b') :
    blockDone num b = { b' with sys := { b'.sys with blkFill := 0 } } := by
  rw [← hPoll]
  rfl

theorem blockDone_of_reported (h : SweepReported b) :
    blockDone num b = { acqReport num (sweptBlock num b) with sys := { b.sys with blkFill := 0 } } := by
  obtain ⟨hSearch, hDone⟩ := h
  have hPoll : acqPoll num (polledBlock num b) = acqReport num (sweptBlock num b) :=
    (acqPoll_searching num (b := polledBlock num b) hSearch).trans (if_pos hDone)
  have hEq := blockDone_of_poll num hPoll
  have hSys : { (acqReport num (sweptBlock num b)).sys with blkFill := 0 } = { b.sys with blkFill := 0 } :=
    (congrArg Block.sys hEq).symm.trans (blockDone_sys num b)
  rw [hEq, hSys]

/-- Without a report only a sweep in flight is touched: it has waited one boundary more (R201). -/
theorem blockDone_of_not_reported (hConsumed : b.acq.state ≠ .resultsReady) (h : ¬SweepReported b) :
    blockDone num b =
      { polledBlock num b with
        sys := { b.sys with blkFill := 0 }
        acq := { b.acq with wait := if b.acq.state = .searching then b.acq.wait + 1 else b.acq.wait }
        draws := if b.acq.state = .searching then drawsAfter b else b.draws } := by
  rcases acqPoll_cases num (b := polledBlock num b) hConsumed with
    ⟨hIdle, hPoll⟩ | ⟨hSearch, hDone, -⟩ | ⟨hSearch, -, hPoll⟩
  · have hIdle : b.acq.state ≠ .searching := hIdle
    rw [if_neg hIdle, if_neg hIdle]
    exact blockDone_of_poll num hPoll
  · exact absurd ⟨hSearch, hDone⟩ h
  · have hSearch : b.acq.state = .searching := hSearch
    rw [if_pos hSearch, if_pos hSearch]
    exact blockDone_of_poll num hPoll

theorem sweptBlock_found_sat {x : Found α} (hx : x ∈ (sweptBlock num b).acq.found) :
    1 ≤ x.sat ∧ x.sat ≤ 32 := by
  obtain ⟨hLow, hHigh, -⟩ := (mem_acqSweep_found num _ x).mp hx
  exact ⟨hLow, hHigh⟩

theorem sweptBlock_found_ascending (b : Block α) :
    (sweptBlock num b).acq.found.Pairwise fun x y => x.sat < y.sat :=
  foundFrom_ascending num 1 (sweepAll num _)

theorem blockDone_acq_of_reported (h : SweepReported b) :
    (blockDone num b).acq = { (acqSweep num b).acq with state := .idle } := by
  rw [blockDone_of_reported num h]
  exact acqReport_acq num (sweptBlock num b)

theorem blockDone_found_of_reported (h : SweepReported b) :
    (blockDone num b).acq.found = (sweptBlock num b).acq.found := by
  rw [blockDone_acq_of_reported num h]
  rfl

/-- One draw is taken for a sweep in flight without a latency (R201). -/
theorem blockDone_draws (hConsumed : b.acq.state ≠ .resultsReady) :
    (blockDone num b).draws =
      if b.acq.state = .searching ∧ b.cfg.sweepLatency = none then b.draws + 1 else b.draws := by
  have hTaken : (blockDone num b).draws = if b.acq.state = .searching then drawsAfter b else b.draws := by
    by_cases hReported : SweepReported b
    · rw [blockDone_of_reported num hReported, if_pos hReported.1]
      exact acqReport_draws num (sweptBlock num b)
    · rw [blockDone_of_not_reported num hConsumed hReported]
  rw [hTaken]
  cases hLatency : b.cfg.sweepLatency with
  | none => simp [drawsAfter_draw hLatency]
  | some l => simp [drawsAfter_latency hLatency]

/-- What a boundary leaves alone. -/
theorem blockDone_frame (b : Block α) :
    blockDone num b =
      { b with
        sys := { b.sys with blkFill := 0 }
        acq := (blockDone num b).acq, ch := (blockDone num b).ch, evOut := (blockDone num b).evOut
        draws := (blockDone num b).draws } := by
  obtain ⟨_, _, _, _, h⟩ := blockDone_eq num b
  rw [h]

/-! ### The slots and the events of a boundary (R343, R389) -/

/-- Whether a found satellite is promoted: exactly when its slot holds no active channel that is alive. -/
def promotedAt (slots : List (Channel α)) (x : Found α) : Bool :=
  !(slots[x.sat - 1]?).any fun c => c.active && c.alive

theorem sweptBlock_ch_getElem? {i : Nat} {c : Channel α} (hc : (deliveredSlots num b)[i]? = some c) :
    (sweptBlock num b).ch[i]? = some (keepAlive c) :=
  (polledBlock_ch_getElem? num b i).trans (congrArg (Option.map keepAlive) hc)

theorem channelAt_sweptBlock {s : Nat} {c : Channel α} (hc : (deliveredSlots num b)[s - 1]? = some c) :
    channelAt num (sweptBlock num b) s = keepAlive c :=
  channelAt_of_getElem? num (sweptBlock_ch_getElem? num hc)

/-- The report asks the slots as they are after the liveness poll. -/
theorem channelAt_sweptBlock_inactive (hLen : b.ch.length = 32) {x : Found α}
    (hx : x ∈ (sweptBlock num b).acq.found) :
    (!(channelAt num (sweptBlock num b) x.sat).active) = promotedAt (deliveredSlots num b) x := by
  obtain ⟨hLow, hHigh⟩ := sweptBlock_found_sat num hx
  have hSlot : x.sat - 1 < (deliveredSlots num b).length := by
    rw [deliveredSlots_length, hLen]
    omega
  have hc := List.getElem?_eq_getElem hSlot
  rw [channelAt_sweptBlock num hc, promotedAt, hc]
  rfl

theorem blockDone_evOut_of_reported (hLen : b.ch.length = 32) (h : SweepReported b) :
    (blockDone num b).evOut =
      (polledBlock num b).evOut ++ .acqDone (blockDone num b).acq.found.length ::
        (blockDone num b).acq.found.flatMap fun x => resultEvents (promotedAt (deliveredSlots num b) x) x := by
  have hReport := acqReport_evOut num (b := sweptBlock num b)
    (fun x hx => (sweptBlock_found_sat num hx).1) (sweptBlock_found_ascending num b)
  have hSame (x : Found α) (hx : x ∈ (sweptBlock num b).acq.found) :
      resultEvents (!(channelAt num (sweptBlock num b) x.sat).active) x
        = resultEvents (promotedAt (deliveredSlots num b) x) x := by
    rw [channelAt_sweptBlock_inactive num hLen hx]
  rw [List.flatMap_congr hSame] at hReport
  rw [blockDone_found_of_reported num h, blockDone_of_reported num h]
  exact hReport

/-- A slot that is not promoted is as the liveness poll leaves it. -/
theorem blockDone_ch_kept (hLen : b.ch.length = 32) (hConsumed : b.acq.state ≠ .resultsReady) {i : Nat}
    {c : Channel α} (hc : (deliveredSlots num b)[i]? = some c)
    (hKept : c.active = true ∧ c.alive = true ∨ ¬SweepReported b
      ∨ ∀ x ∈ (blockDone num b).acq.found, x.sat ≠ i + 1) :
    (blockDone num b).ch[i]? = some (keepAlive c) := by
  have hSlot := sweptBlock_ch_getElem? num hc
  by_cases hReported : SweepReported b
  · obtain ⟨-, -, hOthers⟩ := promotionOnlyOfInactive α num (sweptBlock num b)
      ((polledBlock_ch_length num b).trans hLen) (fun x => sweptBlock_found_sat num)
      (sweptBlock_found_ascending num b)
    rw [blockDone_found_of_reported num hReported] at hKept
    rw [blockDone_of_reported num hReported]
    refine hOthers i (keepAlive c) hSlot ?_
    rcases hKept with ⟨hActive, hAlive⟩ | hNot | hAbsent
    · exact .inl (by simp [keepAlive, hActive, hAlive])
    · exact absurd hReported hNot
    · exact .inr hAbsent
  · rw [blockDone_of_not_reported num hConsumed hReported]
    exact hSlot

/-- A found satellite whose slot is inactive after the poll gets a fresh channel (R203). -/
theorem blockDone_ch_promoted (hLen : b.ch.length = 32) {i : Nat} {c : Channel α}
    (hc : (deliveredSlots num b)[i]? = some c) (hInactive : ¬(c.active = true ∧ c.alive = true))
    (hReported : SweepReported b) {x : Found α} (hx : x ∈ (blockDone num b).acq.found) (hSat : x.sat = i + 1) :
    (blockDone num b).ch[i]? = some { channelNew num b.cfg with
      active := true, alive := true, state := .offsetAcquire
      nco := oscSetFrequency num b.cfg x.freq (oscNew num) } := by
  obtain rfl : i = x.sat - 1 := by omega
  obtain ⟨-, hFresh, -⟩ := promotionOnlyOfInactive α num (sweptBlock num b)
    ((polledBlock_ch_length num b).trans hLen) (fun x => sweptBlock_found_sat num)
    (sweptBlock_found_ascending num b)
  rw [blockDone_found_of_reported num hReported] at hx
  rw [blockDone_of_reported num hReported]
  refine (hFresh x hx ?_).1
  rw [channelAt_sweptBlock num hc]
  simpa [keepAlive] using hInactive

end Boundary

/-- Settles O60: the polled block, then the report where there is one: its events, slots, engine and frame. -/
theorem blockBoundaryFollowsRule : Obligations.BlockBoundaryFollowsRule := by
  refine ⟨fun α num cfg spec s c => ⟨rfl, fun x xs => rfl⟩, fun α num b hLen hBounds => ?_⟩
  have hConsumed := hBounds.consumed
  refine ⟨?events, fun i c hc => ⟨fun hKept => ?kept, fun hInactive hReported x hx hSat => ?promoted⟩,
    fun hReported => blockDone_acq_of_reported num hReported, fun hNot => ?waited, ?frame⟩
  case events =>
    have hPolled := polledBlock_evOut num b
    by_cases hReported : SweepReported b
    · refine (blockDone_evOut_of_reported num hLen hReported).trans ?_
      rw [hPolled]
      exact congrArg _ (if_pos hReported).symm
    · rw [blockDone_of_not_reported num hConsumed hReported]
      exact hPolled.trans ((List.append_nil _).symm.trans (congrArg _ (if_neg hReported).symm))
  case kept => exact blockDone_ch_kept num hLen hConsumed hc hKept
  case promoted => exact blockDone_ch_promoted num hLen hc hInactive hReported hx hSat
  case waited => rw [blockDone_of_not_reported num hConsumed hNot]
  case frame => rw [← blockDone_draws num hConsumed]; exact blockDone_frame num b

end Sys2Proof.Machine

/-! PROOFS. Tracking: the statements of 45_tracking_fsm.md: a period in each lock state (R250 to R264,
R268 to R273), the transitions it can make (R274), and the two angle checks over exact reals (R265, R267). -/

namespace Sys2Proof.Machine

/-! ### The state machine's rule for each state and offset (R250) -/

section Rules

variable {α : Type} (num : Numerics α) (cfg : Cfg) (s : Nat) (peak : Cx α) {c : Channel α}

theorem trkStep_of_offsetAcquire (offOk : Bool) (h : c.state = .offsetAcquire) :
    trkStep num cfg s offOk peak c = offsetStage num s offOk c :=
  if_pos h

theorem trkStep_of_lost (offOk : Bool) (h : c.state = .signalLost) :
    trkStep num cfg s offOk peak c = quiet c := by
  simp [trkStep, h]

theorem trkStep_of_valid (hPast : c.state ≠ .offsetAcquire) (hKept : c.state ≠ .signalLost) :
    trkStep num cfg s true peak c = validPeriod num cfg s peak { c with offInvalid := 0 } := by
  simp [trkStep, hPast, hKept]

theorem trkStep_of_invalid (hPast : c.state ≠ .offsetAcquire) (hKept : c.state ≠ .signalLost) :
    trkStep num cfg s false peak c = offsetInvalidLater num s c := by
  simp [trkStep, hPast, hKept]

theorem validPeriod_frequencyAcquire (h : c.state = .frequencyAcquire) :
    validPeriod num cfg s peak c = frequencyStage num cfg s peak c := by
  simp [validPeriod, h]

theorem validPeriod_pllAcquire (h : c.state = .pllAcquire) :
    validPeriod num cfg s peak c = pllCount num s (iqOk num peak) (trkPll num cfg peak c) := by
  simp [validPeriod, h]

/-- A rule that follows the phase-loss count, while the channel is alive (R250). -/
def checkedStage (rule : Channel α → Tracked α) (c : Channel α) : Tracked α :=
  (iqCount num s (iqOk num peak) c).andThen (ifAlive rule)

theorem validPeriod_bitAcquire (h : c.state = .bitAcquire) :
    validPeriod num cfg s peak c
      = checkedStage num s peak (bitSyncStage num s peak) (trkPll num cfg peak c) := by
  simp [validPeriod, checkedStage, h]

theorem validPeriod_bitWindow (h : c.state = .preambleAcquire ∨ c.state = .subframeAcquire) :
    validPeriod num cfg s peak c
      = checkedStage num s peak (bitStage num s peak) (trkPll num cfg peak c) := by
  rcases h with h | h <;> simp [validPeriod, checkedStage, h]

/-- From `PLL_ACQUIRE` on, a valid offset restarts the invalid count and the loop takes the Costas error
before the rule of the state. -/
theorem trkStep_pllAcquire (h : c.state = .pllAcquire) :
    trkStep num cfg s true peak c
      = pllCount num s (iqOk num peak) (pllPush num cfg (costas num peak) { c with offInvalid := 0 }) :=
  (trkStep_of_valid num cfg s peak (by simp [h]) (by simp [h])).trans
    (validPeriod_pllAcquire num cfg s peak h)

theorem trkStep_bitAcquire (h : c.state = .bitAcquire) :
    trkStep num cfg s true peak c
      = checkedStage num s peak (bitSyncStage num s peak)
          (pllPush num cfg (costas num peak) { c with offInvalid := 0 }) :=
  (trkStep_of_valid num cfg s peak (by simp [h]) (by simp [h])).trans
    (validPeriod_bitAcquire num cfg s peak h)

theorem trkStep_bitWindow (h : c.state = .preambleAcquire ∨ c.state = .subframeAcquire) :
    trkStep num cfg s true peak c
      = checkedStage num s peak (bitStage num s peak)
          (pllPush num cfg (costas num peak) { c with offInvalid := 0 }) :=
  (trkStep_of_valid num cfg s peak (by rcases h with h | h <;> simp [h])
    (by rcases h with h | h <;> simp [h])).trans (validPeriod_bitWindow num cfg s peak h)

end Rules

/-! ### Offset counting (R253, R254) -/

section OffsetCounts

variable {α : Type} (num : Numerics α) (s : Nat) {c : Channel α}

theorem offsetStage_valid (h : c.offValid + 1 ≠ offValidN) :
    offsetStage num s true c = quiet { c with offValid := c.offValid + 1, offInvalid := 0 } := by
  simp [offsetStage, h]

theorem offsetStage_lastValid (h : c.offValid + 1 = offValidN) :
    offsetStage num s true c
      = goto num s .frequencyAcquire .advance { c with offValid := offValidN, offInvalid := 0 } := by
  simp [offsetStage, h]

theorem offsetStage_invalid (h : c.offInvalid + 1 ≠ offInvalidN) :
    offsetStage num s false c = quiet { c with offInvalid := c.offInvalid + 1, offValid := 0 } := by
  simp [offsetStage, h]

theorem offsetStage_lastInvalid (h : c.offInvalid + 1 = offInvalidN) :
    offsetStage num s false c
      = goto num s .signalLost .offsetInvalid { c with offInvalid := offInvalidN, offValid := 0 } := by
  simp [offsetStage, h]

theorem offsetInvalidLater_counted (h : c.offInvalid + 1 ≠ offInvalidN) :
    offsetInvalidLater num s c = quiet { c with offInvalid := c.offInvalid + 1, codeOff := 0 } := by
  simp [offsetInvalidLater, h]

theorem offsetInvalidLater_last (h : c.offInvalid + 1 = offInvalidN) :
    offsetInvalidLater num s c
      = goto num s .signalLost .offsetInvalid { c with offInvalid := offInvalidN } := by
  simp [offsetInvalidLater, h]

end OffsetCounts

/-- Settles O46: the two rules that count offsets, each on both sides of its tenth. -/
theorem offsetsCounted : Obligations.OffsetsCounted := by
  refine fun α num cfg s peak c => ⟨fun hState => ?acquire, fun hPast hKept => ?later⟩
  case acquire =>
    simp only [trkStep_of_offsetAcquire num cfg s peak _ hState]
    refine ⟨offsetStage_valid num s, fun hTenth => ?_, offsetStage_invalid num s, fun hTenth => ?_⟩
    · rw [offsetStage_lastValid num s hTenth, ← hState]; rfl
    · rw [offsetStage_lastInvalid num s hTenth, ← hState]; rfl
  case later =>
    rw [trkStep_of_invalid num cfg s peak hPast hKept]
    exact ⟨offsetInvalidLater_counted num s, offsetInvalidLater_last num s⟩

/-! ### Phase checks and the loop (R264, R268, R269) -/

section PhaseChecks

variable {α : Type} (num : Numerics α) (cfg : Cfg) (s : Nat) (peak : Cx α) {c : Channel α}

/-- What a pushed error can change: the loop's own fields and the oscillator. -/
theorem pllPush_changes (e : α) (c : Channel α) : ∃ errs n mean var o, pllPush num cfg e c =
    { c with pllErr := errs, pllN := n, pllMean := mean, pllVar := var, nco := o } := by
  by_cases h : c.pllN + 1 = pllBlock
  · exact ⟨_, _, _, _, _, pllPush_updates num cfg e h⟩
  · exact ⟨_, _, _, _, _, pllPush_buffers num cfg e h⟩

@[simp] theorem pllPush_state (e : α) (c : Channel α) : (pllPush num cfg e c).state = c.state := by
  obtain ⟨_, _, _, _, _, h⟩ := pllPush_changes num cfg e c
  rw [h]

@[simp] theorem pllPush_alive (e : α) (c : Channel α) : (pllPush num cfg e c).alive = c.alive := by
  obtain ⟨_, _, _, _, _, h⟩ := pllPush_changes num cfg e c
  rw [h]

@[simp] theorem pllPush_iqValid (e : α) (c : Channel α) : (pllPush num cfg e c).iqValid = c.iqValid := by
  obtain ⟨_, _, _, _, _, h⟩ := pllPush_changes num cfg e c
  rw [h]

@[simp] theorem pllPush_iqInvalid (e : α) (c : Channel α) :
    (pllPush num cfg e c).iqInvalid = c.iqInvalid := by
  obtain ⟨_, _, _, _, _, h⟩ := pllPush_changes num cfg e c
  rw [h]

theorem pllCount_valid (h : c.iqValid + 1 ≠ pllValidN) :
    pllCount num s true c = quiet { c with iqValid := c.iqValid + 1 } := by
  simp [pllCount, h]

theorem pllCount_lastValid (h : c.iqValid + 1 = pllValidN) :
    pllCount num s true c = goto num s .bitAcquire .advance { c with iqValid := pllValidN } := by
  simp [pllCount, h]

theorem iqCount_kept {ok : Bool} (h : ok = true ∨ c.iqInvalid + 1 ≠ iqInvalidN) :
    iqCount num s ok c = quiet { c with iqInvalid := if ok = true then 0 else c.iqInvalid + 1 } := by
  cases ok with
  | true => rfl
  | false => simp [iqCount, h.resolve_left nofun]

/-- The tenth invalid check in a row: the signal is lost, and the rule that would follow does not run. -/
theorem checkedStage_lost (rule : Channel α → Tracked α) (hBad : iqOk num peak = false)
    (h : c.iqInvalid + 1 = iqInvalidN) :
    checkedStage num s peak rule c = goto num s .signalLost .iqInvalid { c with iqInvalid := iqInvalidN } := by
  simp [checkedStage, iqCount, hBad, h, goto, entryActions, Tracked.andThen, ifAlive]

/-- Any other check: the count is kept, and a channel that is alive goes on to the rule. -/
theorem checkedStage_kept (rule : Channel α → Tracked α)
    (h : iqOk num peak = true ∨ c.iqInvalid + 1 ≠ iqInvalidN) :
    checkedStage num s peak rule c =
      ifAlive rule { c with iqInvalid := if iqOk num peak = true then 0 else c.iqInvalid + 1 } := by
  rw [checkedStage, iqCount_kept num s h]
  rfl

theorem ifAlive_of_alive (rule : Channel α → Tracked α) (h : c.alive = true) : ifAlive rule c = rule c :=
  if_pos h

end PhaseChecks

/-- Settles O51: the state's rule on the channel the loop leaves, which keeps the counts the rule reads. -/
theorem validPeriodByState : Obligations.ValidPeriodByState := by
  intro α num cfg s peak c hAlive ok step d counted later
  have hIqValid : d.iqValid = c.iqValid := pllPush_iqValid ..
  have hIqInvalid : d.iqInvalid = c.iqInvalid := pllPush_iqInvalid ..
  have hState : d.state = c.state := pllPush_state ..
  have hCounted : counted.alive = true := (pllPush_alive ..).trans hAlive
  have hLost (rule : Channel α → Tracked α) (hBad : ok = false) (hTenth : c.iqInvalid + 1 = 10) :
      checkedStage num s peak rule d
        = ⟨{ d with iqInvalid := 10, state := .signalLost, alive := false },
            [.stateChange s c.state .signalLost .iqInvalid]⟩ := by
    rw [checkedStage_lost num s peak rule hBad (hIqInvalid ▸ hTenth), ← hState]
    rfl
  have hKept (rule : Channel α → Tracked α) (h : ok = true ∨ c.iqInvalid + 1 ≠ 10) :
      checkedStage num s peak rule d = rule counted := by
    rw [checkedStage_kept num s peak rule (hIqInvalid ▸ h), hIqInvalid]
    exact ifAlive_of_alive rule hCounted
  refine ⟨?pllInvalid, ?pllValid, ?pllLast, ?lost, ?bit, ?window⟩
  case pllInvalid =>
    intro h hBad
    exact (trkStep_pllAcquire num cfg s peak h).trans (congrArg (pllCount num s · d) hBad)
  case pllValid =>
    intro h hOk hCount
    calc step = pllCount num s ok d := trkStep_pllAcquire num cfg s peak h
      _ = quiet { d with iqValid := d.iqValid + 1 } := by rw [hOk, pllCount_valid num s (hIqValid ▸ hCount)]
      _ = quiet { d with iqValid := c.iqValid + 1 } := by rw [hIqValid]
  case pllLast =>
    intro h hOk hCount
    calc step = pllCount num s ok d := trkStep_pllAcquire num cfg s peak h
      _ = goto num s .bitAcquire .advance { d with iqValid := pllValidN } := by
        rw [hOk, pllCount_lastValid num s (hIqValid ▸ hCount)]
      _ = _ := by rw [← h, ← hState]; rfl
  case lost =>
    rintro (h | h) hBad hTenth
    · exact (trkStep_bitAcquire num cfg s peak h).trans (hLost _ hBad hTenth)
    · exact (trkStep_bitWindow num cfg s peak h).trans (hLost _ hBad hTenth)
  case bit => exact fun h hCheck => (trkStep_bitAcquire num cfg s peak h).trans (hKept _ hCheck)
  case window => exact fun h hCheck => (trkStep_bitWindow num cfg s peak h).trans (hKept _ hCheck)

/-! ### Bit synchronisation and the bit window (R270 to R273) -/

section BitWindow

variable {α : Type} (num : Numerics α) (s : Nat) (peak : Cx α) {c : Channel α}

theorem bitSyncStage_first (h : c.bsHavePrev = false) :
    bitSyncStage num s peak c = quiet { c with bsPrev := num.sgn peak.re, bsHavePrev := true } := by
  simp [bitSyncStage, h]

theorem bitSyncStage_sameSign (h : c.bsHavePrev = true) (hSame : num.sgn peak.re = c.bsPrev) :
    bitSyncStage num s peak c = quiet c :=
  (if_pos h).trans ((if_pos hSame).trans (by rw [hSame]))

/-- A change of sign: the step to `PREAMBLE_ACQUIRE`, and the first period of a window. -/
theorem bitSyncStage_change (h : c.bsHavePrev = true) (hChange : num.sgn peak.re ≠ c.bsPrev) :
    bitSyncStage num s peak c =
      (goto num s .preambleAcquire .advance { c with bsPrev := num.sgn peak.re }).andThen fun c =>
        quiet { c with bitSum := (num.sgn peak.re).toInt, bitCnt := 1 } := by
  simp [bitSyncStage, h, hChange]

theorem bitStage_counts (h : c.bitCnt + 1 ≠ bitPeriods) :
    bitStage num s peak c =
      quiet { c with bitSum := c.bitSum + (num.sgn peak.re).toInt, bitCnt := c.bitCnt + 1 } :=
  if_neg h

theorem bitStage_tie (h : c.bitCnt + 1 = bitPeriods) (hZero : c.bitSum + (num.sgn peak.re).toInt = 0) :
    bitStage num s peak c = bitSyncLost num s { c with bitSum := 0, bitCnt := 0 } := by
  simp [bitStage, h, hZero]

theorem bitStage_decides (h : c.bitCnt + 1 = bitPeriods) (hSum : c.bitSum + (num.sgn peak.re).toInt ≠ 0) :
    bitStage num s peak c =
      bitDecision num s (c.bitSum + (num.sgn peak.re).toInt) { c with bitSum := 0, bitCnt := 0 } := by
  simp [bitStage, h, hSum]

end BitWindow

/-- Settles O52, case by case. -/
theorem bitWindowDecides : Obligations.BitWindowDecides := by
  refine fun α num s peak c => ⟨bitSyncStage_first num s peak, bitSyncStage_sameSign num s peak, ?change,
    bitStage_counts num s peak, bitStage_tie num s peak, bitStage_decides num s peak⟩
  case change =>
    intro h hChange hState
    rw [bitSyncStage_change num s peak h hChange]
    simp [goto, entryActions, hState, Tracked.andThen, quiet]

/-! ### The Costas error and the phase check over exact reals (R265, R267) -/

theorem exactNum_costas (p : Cx ℝ) : costas exactNum p = 2 * p.re * p.im / (p.re ^ 2 + p.im ^ 2) := by
  unfold costas
  split_ifs with hZero
  · have hRe : p.re = 0 := congrArg Complex.re ((exactNum_cIsZero p).mp hZero)
    simp [hRe]
  · rw [exactNum_div, exactNum_mag2]
    simp

/-- A peak that is not 0, by its angle and a magnitude above 0. -/
theorem polar_of_ne_zero {p : Cx ℝ} (h : p.re ≠ 0 ∨ p.im ≠ 0) : ∃ r, 0 < r
    ∧ p.re = r * Real.cos (exactNum.arg p) ∧ p.im = r * Real.sin (exactNum.arg p) := by
  obtain ⟨-, hRe, hIm⟩ := arg_mem_and_polar p
  refine ⟨exactNum.mag p, ?_, hRe, hIm⟩
  rw [exactNum_mag, norm_pos_iff]
  exact fun hZero => h.elim (· (congrArg Complex.re hZero)) (· (congrArg Complex.im hZero))

theorem costas_eq_sin {p : Cx ℝ} (h : p.re ≠ 0 ∨ p.im ≠ 0) :
    costas exactNum p = Real.sin (2 * exactNum.arg p) := by
  obtain ⟨r, hr, hRe, hIm⟩ := polar_of_ne_zero h
  have hNorm : p.re ^ 2 + p.im ^ 2 = r ^ 2 := by
    rw [hRe, hIm, ← mul_one (r ^ 2), ← Real.cos_sq_add_sin_sq (exactNum.arg p)]
    ring
  rw [exactNum_costas, hNorm, div_eq_iff (pow_pos hr 2).ne', Real.sin_two_mul, hRe, hIm]
  ring

/-- Settles O48: the closed form, and its value as a sine. -/
theorem exactCostasError : Obligations.ExactCostasError := by
  refine ⟨by simp [exactNum_costas], fun p hp => ⟨exactNum_costas p, costas_eq_sin hp, ?low, ?high, ?flip⟩⟩
  case low => rw [costas_eq_sin hp]; exact Real.neg_one_le_sin _
  case high => rw [costas_eq_sin hp]; exact Real.sin_le_one _
  case flip => simp [exactNum_costas]

/-- Folding takes off or adds half a turn, which twice the angle does not see. -/
theorem cos_two_mul_fold (x : ℝ) : Real.cos (2 * exactNum.fold x) = Real.cos (2 * x) := by
  rw [exactNum_fold]
  split_ifs
  · rw [mul_sub, Real.cos_sub_two_pi]
  · rw [mul_add, Real.cos_add_two_pi]
  · rfl

/-- An angle of at most a quarter turn is below an eighth exactly when the cosine of its double is
positive. -/
theorem abs_lt_quarterPi_iff {x : ℝ} (h : |x| ≤ Real.pi / 2) :
    |x| < Real.pi / 4 ↔ 0 < Real.cos (2 * x) := by
  have hAbs : Real.cos (2 * x) = Real.cos (2 * |x|) := by
    rw [← Real.cos_abs, abs_mul, abs_two]
  have hNonneg := abs_nonneg x
  have hPi := Real.pi_pos
  rw [hAbs]
  constructor
  · exact fun hLt => Real.cos_pos_of_mem_Ioo ⟨by linarith, by linarith⟩
  · refine fun hCos => lt_of_not_ge fun hGe => hCos.not_ge ?_
    exact Real.cos_nonpos_of_pi_div_two_le_of_le (by linarith) (by linarith)

theorem exactNum_iqOk (p : Cx ℝ) :
    iqOk exactNum p = true ↔ |exactNum.fold (exactNum.arg p)| < Real.pi / 4 := by
  simp [iqOk, Numerics.iqValidAngle, Numerics.quarterPi]

/-- The phase check in a form that folding no longer enters. -/
theorem iqOk_iff_cos (p : Cx ℝ) : iqOk exactNum p = true ↔ 0 < Real.cos (2 * exactNum.arg p) := by
  obtain ⟨⟨hLow, hHigh⟩, -⟩ := arg_mem_and_polar p
  obtain ⟨hFoldLow, hFoldHigh⟩ := fold_mem hLow hHigh
  rw [exactNum_iqOk, abs_lt_quarterPi_iff (abs_le.mpr ⟨hFoldLow.le, hFoldHigh⟩), cos_two_mul_fold]

/-- Settles O49: `re² − im²` has the sign of the cosine of twice the angle. -/
theorem phaseCheckIsQuadrant : Obligations.PhaseCheckIsQuadrant := by
  intro p
  rw [iqOk_iff_cos]
  by_cases hp : p.re = 0 ∧ p.im = 0
  · have hArg : exactNum.arg p = 0 := by
      rw [exactNum_arg, Complex.arg_eq_zero_iff]
      exact ⟨hp.1.ge, hp.2⟩
    simp [hArg, hp]
  · obtain ⟨r, hr, hRe, hIm⟩ := polar_of_ne_zero (not_and_or.mp hp)
    have hDifference : r ^ 2 * Real.cos (2 * exactNum.arg p) = p.re ^ 2 - p.im ^ 2 := by
      rw [hRe, hIm, Real.cos_two_mul']
      ring
    calc 0 < Real.cos (2 * exactNum.arg p)
        ↔ 0 < r ^ 2 * Real.cos (2 * exactNum.arg p) := (mul_pos_iff_of_pos_left (pow_pos hr 2)).symm
      _ ↔ p.im ^ 2 < p.re ^ 2 := by rw [hDifference, sub_pos]
      _ ↔ |p.im| < |p.re| := sq_lt_sq
      _ ↔ _ := (or_iff_left hp).symm

/-! ### The frequency stage (R256 to R263) -/

section FrequencyStage

variable {α : Type} (num : Numerics α) (cfg : Cfg) (s : Nat) (peak : Cx α) {c : Channel α}

theorem trkStep_frequencyAcquire (h : c.state = .frequencyAcquire) :
    trkStep num cfg s true peak c = frequencyStage num cfg s peak { c with offInvalid := 0 } :=
  (trkStep_of_valid num cfg s peak (by simp [h]) (by simp [h])).trans
    (validPeriod_frequencyAcquire num cfg s peak h)

theorem frequencyStage_first (h : c.faHavePrev = false) :
    frequencyStage num cfg s peak c = quiet { c with faPrev := num.arg peak, faHavePrev := true } := by
  simp [frequencyStage, h]

/-- A later angle in `FREQUENCY_ACQUIRE`: its wrapped difference from the one before (R256, R258, R259). -/
theorem trkStep_nextAngle (h : c.state = .frequencyAcquire) (hNext : c.faHavePrev = true) :
    trkStep num cfg s true peak c =
      frequencyDelta num cfg s (num.wrappi (num.sub (num.arg peak) c.faPrev))
        { c with offInvalid := 0, faPrev := num.arg peak } :=
  (trkStep_frequencyAcquire num cfg s peak h).trans (if_pos hNext)

theorem frequencyDelta_outlier {delta : α} (h : num.lt (num.abs delta) num.faOutlier = false) :
    frequencyDelta num cfg s delta c = quiet (outlier num cfg c) := by
  simp [frequencyDelta, h]

theorem frequencyDelta_accumulates {delta : α} (h : num.lt (num.abs delta) num.faOutlier = true)
    (hCount : c.faN + 1 ≠ faPeriods) :
    frequencyDelta num cfg s delta c = quiet { c with faSum := num.add c.faSum delta, faN := c.faN + 1 } := by
  simp [frequencyDelta, h, hCount]

theorem frequencyDelta_estimates {delta : α} (h : num.lt (num.abs delta) num.faOutlier = true)
    (hCount : c.faN + 1 = faPeriods) :
    frequencyDelta num cfg s delta c
      = estimate num cfg s { c with faSum := num.add c.faSum delta, faN := faPeriods } := by
  simp [frequencyDelta, h, hCount]

/-- The channel that the raw estimate leaves: the ring with the estimate, the oscillator corrected by it,
the accumulator empty (R261, R262). -/
def estimated (c : Channel α) : Channel α :=
  let f := frequencyEstimate num c.faSum faPeriods
  { maPush f c with nco := oscAddFrequency num cfg f c.nco, faSum := num.zero, faN := 0 }

theorem estimate_notLocked (h : num.lt (num.abs (maAverage num (estimated num cfg c))) num.faLock = false) :
    estimate num cfg s c = quiet (estimated num cfg c) :=
  if_neg (ne_true_of_eq_false h)

theorem estimate_locks (h : num.lt (num.abs (maAverage num (estimated num cfg c))) num.faLock = true) :
    estimate num cfg s c = goto num s .pllAcquire .advance (estimated num cfg c) :=
  if_pos h

end FrequencyStage

/-! ### The moving average (R262) -/

/-- The last five values of a sequence, or all of them while they are fewer. -/
def lastFive {α : Type} (vs : List α) : List α := vs.drop (vs.length - faMaLen)

/-- The ring of a channel after the values `vs` were pushed into it empty: its present part, turned to begin
at its oldest value, is the last five of them. -/
structure RingHolds {α : Type} (c : Channel α) (vs : List α) : Prop where
  length : c.ma.length = faMaLen
  count : c.maN = min vs.length faMaLen
  pos : c.maPos = vs.length % faMaLen
  recent : (c.ma.take c.maN).rotate vs.length = lastFive vs

/-- Overwriting the oldest value of a full ring drops it and puts the new one last. -/
theorem rotate_set_oldest {α : Type} (l : List α) (n : Nat) (v : α) (h : l ≠ []) :
    (l.set (n % l.length) v).rotate (n + 1) = (l.rotate n).tail ++ [v] := by
  have hLt : n % l.length < l.length := Nat.mod_lt _ (List.length_pos_iff.mpr h)
  have hTurned : (l.set (n % l.length) v).rotate n = v :: (l.rotate n).tail := by
    rw [← List.rotate_mod, ← List.rotate_mod l, List.length_set,
      List.rotate_eq_drop_append_take (by simpa using hLt.le), List.rotate_eq_drop_append_take hLt.le,
      List.drop_eq_getElem_cons (by simpa using hLt), List.drop_eq_getElem_cons hLt]
    simp only [List.getElem_set_self, List.cons_append, List.tail_cons,
      List.drop_set_of_lt (Nat.lt_succ_self _), List.take_set_of_le le_rfl]
  rw [← List.rotate_rotate, hTurned]
  simp

theorem rotate_take {α : Type} {l : List α} {n : Nat} (h : n ≤ l.length) :
    (l.take n).rotate n = l.take n := by
  simpa [h] using List.rotate_length (l.take n)

/-- Writing behind the present part of a ring that is not full puts the new value last. -/
theorem rotate_set_free {α : Type} {l : List α} {n : Nat} (v : α) (h : n < l.length) :
    ((l.set n v).take (n + 1)).rotate (n + 1) = (l.take n).rotate n ++ [v] := by
  rw [rotate_take (by simpa using h), rotate_take h.le, List.take_succ_eq_append_getElem (by simpa using h),
    List.getElem_set_self, List.take_set_of_le le_rfl]

theorem lastFive_concat_of_lt {α : Type} {vs : List α} (v : α) (h : vs.length < faMaLen) :
    lastFive (vs ++ [v]) = lastFive vs ++ [v] := by
  have hOld : vs.length - faMaLen = 0 := Nat.sub_eq_zero_of_le h.le
  have hNew : (vs ++ [v]).length - faMaLen = 0 := by simp; omega
  rw [lastFive, lastFive, hOld, hNew]
  rfl

theorem lastFive_concat_of_ge {α : Type} {vs : List α} (v : α) (h : faMaLen ≤ vs.length) :
    lastFive (vs ++ [v]) = (lastFive vs).tail ++ [v] := by
  have hPos : 0 < faMaLen := by decide
  have hDropped : (vs ++ [v]).length - faMaLen = vs.length - faMaLen + 1 := by simp; omega
  rw [lastFive, lastFive, hDropped, List.tail_drop, List.drop_append_of_le_length (by omega)]

/-- A push keeps the ring in step with the sequence, whether the ring is full or not (R262). -/
theorem RingHolds.push {α : Type} {c : Channel α} {vs : List α} (h : RingHolds c vs) (v : α) :
    RingHolds (maPush v c) (vs ++ [v]) where
  length := (memWrite_length ..).trans h.length
  count := by
    change min (c.maN + 1) faMaLen = _
    rw [h.count, List.length_append, List.length_singleton]
    omega
  pos := by
    change (c.maPos + 1) % faMaLen = _
    rw [h.pos, List.length_append, List.length_singleton, Nat.mod_add_mod]
  recent := by
    change ((c.ma.set c.maPos v).take (min (c.maN + 1) faMaLen)).rotate (vs ++ [v]).length = _
    have hRecent := h.recent
    rw [h.count] at hRecent
    rw [h.pos, h.count, List.length_append, List.length_singleton, ← h.length]
    rcases lt_or_ge vs.length faMaLen with hPart | hFull
    · have hFree : vs.length < c.ma.length := h.length ▸ hPart
      rw [min_eq_left hPart.le] at hRecent
      rw [lastFive_concat_of_lt v hPart, ← hRecent, Nat.mod_eq_of_lt hFree, min_eq_left hFree.le,
        min_eq_left hFree]
      exact rotate_set_free v hFree
    · have hOver : c.ma.length ≤ vs.length := h.length ▸ hFull
      rw [min_eq_right hFull, ← h.length, List.take_length] at hRecent
      rw [lastFive_concat_of_ge v hFull, ← hRecent, min_eq_right hOver, min_eq_right (Nat.le_succ _),
        List.take_of_length_le (List.length_set ..).le]
      exact rotate_set_oldest c.ma _ v (List.ne_nil_of_length_pos (h.length ▸ Nat.succ_pos _))

theorem ringHolds_nil {α : Type} {c : Channel α} (hLength : c.ma.length = faMaLen) (hCount : c.maN = 0)
    (hPos : c.maPos = 0) : RingHolds c [] where
  length := hLength
  count := hCount
  pos := hPos
  recent := by simp [hCount, lastFive]

theorem ringHolds_foldl_push {α : Type} {c : Channel α} (h : RingHolds c []) (vs : List α) :
    RingHolds (vs.foldl (fun c v => maPush v c) c) vs := by
  induction vs using List.reverseRecOn with
  | nil => exact h
  | append_singleton vs v ih =>
    rw [List.foldl_concat]
    exact ih.push v

/-- Over exact reals the average is the mean: a turn of the ring does not change its sum. -/
theorem RingHolds.average {c : Channel ℝ} {vs : List ℝ} (h : RingHolds c vs) :
    maAverage exactNum c = (lastFive vs).sum / (lastFive vs).length := by
  have hSum : (c.ma.take c.maN).sum = (lastFive vs).sum := by
    rw [← h.recent]
    exact (List.rotate_perm _ _).sum_eq.symm
  have hCount : c.maN = (lastFive vs).length := by
    rw [h.count, lastFive, List.length_drop]
    omega
  rw [maAverage, exactNum_sum, hSum, exactNum_ofNat, exactNum_div, ← hCount]

/-- Settles O47: an equation of the stage per case, and the ring's average. -/
theorem frequencyStageAndAverage : Obligations.FrequencyStageAndAverage := by
  refine ⟨fun α num cfg s peak c hState => ?stage, fun c vs hLength hCount hPos _ => ?average⟩
  case stage =>
    have hFirst := frequencyStage_first num cfg s peak (c := { c with offInvalid := 0 })
    rw [← trkStep_frequencyAcquire num cfg s peak hState] at hFirst
    refine ⟨hFirst, fun hNext hLarge => ?outlier, fun hNext hSmall hCount => ?accumulated,
      fun hNext hSmall hCount hFar => ?estimated, fun hNext hSmall hCount hNear => ?locked⟩
    case outlier =>
      rw [trkStep_nextAngle num cfg s peak hState hNext]
      exact frequencyDelta_outlier num cfg s hLarge
    case accumulated =>
      rw [trkStep_nextAngle num cfg s peak hState hNext]
      exact frequencyDelta_accumulates num cfg s hSmall hCount
    case estimated =>
      rw [trkStep_nextAngle num cfg s peak hState hNext]
      exact Eq.trans (frequencyDelta_estimates num cfg s hSmall hCount) (estimate_notLocked num cfg s hFar)
    case locked =>
      rw [trkStep_nextAngle num cfg s peak hState hNext, ← hState]
      exact Eq.trans (frequencyDelta_estimates num cfg s hSmall hCount) (estimate_locks num cfg s hNear)
  case average => exact (ringHolds_foldl_push (ringHolds_nil hLength hCount hPos) vs).average

/-! ### The transitions of a period (R274)

Every rule keeps the lock state and reports nothing of it, or makes one step of the table. A rule made of two
takes its step in one of them. -/

/-- Whether an event is a `STATE` event. -/
def isStateChange {α : Type} : Event α → Bool
  | .stateChange _ _ _ _ => true
  | _ => false

/-- The lock state is still `old` and no `STATE` event reports otherwise. -/
structure KeepsState {α : Type} (old : LockState) (t : Tracked α) : Prop where
  reported : t.evs.filter isStateChange = []
  kept : t.ch.state = old

/-- One step of the table from `old`, reported by one `STATE` event. -/
def ChangesState {α : Type} (s : Nat) (old : LockState) (t : Tracked α) : Prop :=
  ∃ cause, t.evs.filter isStateChange = [.stateChange s old t.ch.state cause]
    ∧ transitionListed old t.ch.state cause = true

/-- What R274 asks of an operation that starts in the lock state `old`. -/
def FollowsTable {α : Type} (s : Nat) (old : LockState) (t : Tracked α) : Prop :=
  KeepsState old t ∨ ChangesState s old t

section Transitions

variable {α : Type} (num : Numerics α) (cfg : Cfg) (s : Nat) {old : LockState} {c : Channel α}

theorem keepsState_quiet (h : c.state = old) : KeepsState old (quiet c) := ⟨rfl, h⟩

theorem followsTable_quiet (h : c.state = old) : FollowsTable s old (quiet c) := .inl (keepsState_quiet h)

/-- The step comes second. -/
theorem KeepsState.andThen {t : Tracked α} {f : Channel α → Tracked α} (ht : KeepsState old t)
    (hf : FollowsTable s old (f t.ch)) : FollowsTable s old (t.andThen f) := by
  have hEvents : (t.andThen f).evs.filter isStateChange = (f t.ch).evs.filter isStateChange := by
    simp [ht.reported]
  rcases hf with hKept | ⟨cause, hReported, hListed⟩
  · exact .inl ⟨hEvents.trans hKept.reported, hKept.kept⟩
  · exact .inr ⟨cause, hEvents.trans hReported, hListed⟩

/-- The step came first. -/
theorem FollowsTable.andThen {t : Tracked α} {f : Channel α → Tracked α} (ht : FollowsTable s old t)
    (hf : KeepsState t.ch.state (f t.ch)) : FollowsTable s old (t.andThen f) := by
  have hState : (t.andThen f).ch.state = t.ch.state := hf.kept
  have hEvents : (t.andThen f).evs.filter isStateChange = t.evs.filter isStateChange := by
    simp [hf.reported]
  rcases ht with hKept | ⟨cause, hReported, hListed⟩
  · exact .inl ⟨hEvents.trans hKept.reported, hState.trans hKept.kept⟩
  · exact .inr ⟨cause, by rw [hEvents, hState, hReported], by rw [hState, hListed]⟩

@[simp] theorem entryActions_state (new : LockState) (c : Channel α) :
    (entryActions num old new c).state = c.state := by
  cases new <;> rfl

/-- The one way the state changes is a step of the table where the table lists it (R251). -/
theorem followsTable_goto {new : LockState} {cause : Cause} (h : c.state = old)
    (hListed : transitionListed old new cause = true) : FollowsTable s old (goto num s new cause c) := by
  have hState : (goto num s new cause c).ch.state = new := entryActions_state ..
  refine .inr ⟨cause, ?_, by rwa [hState]⟩
  rw [hState, ← h]
  rfl

/-! #### Navigation -/

theorem followsTable_preambleMatch (v : NavWord) (inverted : Bool) (h : c.state = .preambleAcquire) :
    FollowsTable s .preambleAcquire (preambleMatch num s v inverted c) :=
  followsTable_goto num s h rfl

theorem followsTable_preambleBit (bit : Bool) (h : c.state = .preambleAcquire) :
    FollowsTable s .preambleAcquire (preambleBit num s bit c) := by
  simp only [preambleBit, preambleTest]
  split_ifs
  · exact followsTable_preambleMatch num s _ _ h
  · exact followsTable_preambleMatch num s _ _ h
  · exact followsTable_quiet s h
  · exact followsTable_quiet s h

theorem keepsState_keepSubframe (h : c.state = old) : KeepsState old (keepSubframe s c) := by
  unfold keepSubframe
  split
  · refine ⟨?_, h⟩
    dsimp only
    split_ifs <;> rfl
  · exact keepsState_quiet h

theorem followsTable_rejectSubframe (idx : Nat) (h : c.state = .subframeAcquire) :
    FollowsTable s .subframeAcquire (rejectSubframe num s idx c) :=
  KeepsState.andThen s ⟨rfl, h⟩ (followsTable_goto num s h rfl)

/-- The report and the store keep the state; the return to `PREAMBLE_ACQUIRE` is the step (R321). -/
theorem followsTable_acceptSubframe (h : c.state = .subframeAcquire) :
    FollowsTable s .subframeAcquire (acceptSubframe num s c) := by
  have hStored := keepsState_keepSubframe s h
  simp only [acceptSubframe]
  exact KeepsState.andThen s ⟨hStored.reported, hStored.kept⟩ (followsTable_goto num s hStored.kept rfl)

theorem followsTable_subframeBit (bit : Bool) (h : c.state = .subframeAcquire) :
    FollowsTable s .subframeAcquire (subframeBit num s bit c) := by
  simp only [subframeBit, validateSubframe]
  split
  · split
    · exact followsTable_rejectSubframe num s _ h
    · split_ifs
      · exact followsTable_rejectSubframe num s _ h
      · exact followsTable_acceptSubframe num s h
  · exact followsTable_quiet s h

theorem followsTable_chBit (bit : Bool) (h : c.state = old) : FollowsTable s old (chBit num s bit c) := by
  subst h
  unfold chBit
  cases hState : c.state with
  | preambleAcquire => exact followsTable_preambleBit num s bit hState
  | subframeAcquire => exact followsTable_subframeBit num s bit hState
  | offsetAcquire => exact followsTable_quiet s hState
  | frequencyAcquire => exact followsTable_quiet s hState
  | pllAcquire => exact followsTable_quiet s hState
  | bitAcquire => exact followsTable_quiet s hState
  | signalLost => exact followsTable_quiet s hState

/-! #### The bit rules and the phase checks -/

theorem followsTable_bitSyncStage (peak : Cx α) (h : c.state = .bitAcquire) :
    FollowsTable s .bitAcquire (bitSyncStage num s peak c) := by
  simp only [bitSyncStage]
  split_ifs
  · exact followsTable_quiet s h
  · exact FollowsTable.andThen s (followsTable_goto num s h (by rfl)) (keepsState_quiet rfl)
  · exact followsTable_quiet s h

/-- In a window the bit rule loses bit synchronisation or hands its bit on (R272, R273). -/
theorem followsTable_bitStage (peak : Cx α) (h : c.state = old)
    (hListed : transitionListed old .bitAcquire .bitsync = true) :
    FollowsTable s old (bitStage num s peak c) := by
  simp only [bitStage]
  split_ifs
  · exact KeepsState.andThen s ⟨rfl, h⟩ (followsTable_goto num s h hListed)
  · exact KeepsState.andThen s ⟨rfl, h⟩ (followsTable_chBit num s _ h)
  · exact followsTable_quiet s h

theorem followsTable_pllCount (ok : Bool) (h : c.state = .pllAcquire) :
    FollowsTable s .pllAcquire (pllCount num s ok c) := by
  simp only [pllCount]
  split_ifs
  · exact followsTable_goto num s h rfl
  · exact followsTable_quiet s h
  · exact followsTable_quiet s h

theorem followsTable_ifAlive {rule : Channel α → Tracked α} (h : c.state = old)
    (hRule : ∀ d : Channel α, d.state = old → FollowsTable s old (rule d)) :
    FollowsTable s old (ifAlive rule c) := by
  unfold ifAlive
  split_ifs
  · exact hRule c h
  · exact followsTable_quiet s h

/-- The phase-loss count loses the signal, or leaves the step to the rule that follows it. -/
theorem followsTable_checkedStage (peak : Cx α) {rule : Channel α → Tracked α} (h : c.state = old)
    (hListed : transitionListed old .signalLost .iqInvalid = true)
    (hRule : ∀ d : Channel α, d.state = old → FollowsTable s old (rule d)) :
    FollowsTable s old (checkedStage num s peak rule c) := by
  by_cases hCheck : iqOk num peak = true ∨ c.iqInvalid + 1 ≠ iqInvalidN
  · rw [checkedStage_kept num s peak rule hCheck]
    exact followsTable_ifAlive s h hRule
  · obtain ⟨hBad, hTenth⟩ := not_or.mp hCheck
    rw [checkedStage_lost num s peak rule (Bool.eq_false_iff.mpr hBad) (not_not.mp hTenth)]
    exact followsTable_goto num s h hListed

/-! #### Frequency and offsets -/

theorem followsTable_frequencyStage (peak : Cx α) (h : c.state = .frequencyAcquire) :
    FollowsTable s .frequencyAcquire (frequencyStage num cfg s peak c) := by
  simp only [frequencyStage, frequencyDelta, estimate]
  split_ifs
  · exact followsTable_goto num s h rfl
  · exact followsTable_quiet s h
  · exact followsTable_quiet s h
  · exact followsTable_quiet s h
  · exact followsTable_quiet s h

theorem followsTable_offsetStage (offOk : Bool) (h : c.state = .offsetAcquire) :
    FollowsTable s .offsetAcquire (offsetStage num s offOk c) := by
  simp only [offsetStage]
  split_ifs
  · exact followsTable_goto num s h rfl
  · exact followsTable_quiet s h
  · exact followsTable_goto num s h rfl
  · exact followsTable_quiet s h

/-- The table lists the loss by an invalid offset from every state that counts offsets (R254). -/
theorem transitionListed_offsetInvalid (h : old ≠ .signalLost) :
    transitionListed old .signalLost .offsetInvalid = true := by
  cases old with
  | signalLost => exact absurd rfl h
  | _ => rfl

theorem followsTable_offsetInvalidLater (h : c.state = old) (hKept : old ≠ .signalLost) :
    FollowsTable s old (offsetInvalidLater num s c) := by
  simp only [offsetInvalidLater]
  split_ifs
  · exact followsTable_goto num s h (transitionListed_offsetInvalid hKept)
  · exact followsTable_quiet s h

theorem followsTable_trkStep_valid (peak : Cx α) (c : Channel α) :
    FollowsTable s c.state (trkStep num cfg s true peak c) := by
  cases hState : c.state with
  | offsetAcquire =>
    rw [trkStep_of_offsetAcquire num cfg s peak _ hState]
    exact followsTable_offsetStage num s _ hState
  | frequencyAcquire =>
    rw [trkStep_frequencyAcquire num cfg s peak hState]
    exact followsTable_frequencyStage num cfg s peak hState
  | pllAcquire =>
    rw [trkStep_pllAcquire num cfg s peak hState]
    exact followsTable_pllCount num s _ ((pllPush_state ..).trans hState)
  | bitAcquire =>
    rw [trkStep_bitAcquire num cfg s peak hState]
    exact followsTable_checkedStage num s peak ((pllPush_state ..).trans hState) rfl
      fun _ => followsTable_bitSyncStage num s peak
  | preambleAcquire =>
    rw [trkStep_bitWindow num cfg s peak (.inl hState)]
    exact followsTable_checkedStage num s peak ((pllPush_state ..).trans hState) rfl
      fun _ h => followsTable_bitStage num s peak h rfl
  | subframeAcquire =>
    rw [trkStep_bitWindow num cfg s peak (.inr hState)]
    exact followsTable_checkedStage num s peak ((pllPush_state ..).trans hState) rfl
      fun _ h => followsTable_bitStage num s peak h rfl
  | signalLost =>
    rw [trkStep_of_lost num cfg s peak _ hState]
    exact followsTable_quiet s hState

theorem followsTable_trkStep_invalid (peak : Cx α) (c : Channel α) :
    FollowsTable s c.state (trkStep num cfg s false peak c) := by
  by_cases hFirst : c.state = .offsetAcquire
  · rw [trkStep_of_offsetAcquire num cfg s peak _ hFirst, hFirst]
    exact followsTable_offsetStage num s _ hFirst
  · by_cases hLost : c.state = .signalLost
    · rw [trkStep_of_lost num cfg s peak _ hLost]
      exact followsTable_quiet s rfl
    · rw [trkStep_of_invalid num cfg s peak hFirst hLost]
      exact followsTable_offsetInvalidLater num s rfl hLost

end Transitions

/-- Settles O44: the statement's own filter is `isStateChange`. -/
theorem transitionsAreTheTable : Obligations.TransitionsAreTheTable := by
  intro α num cfg s offOk peak c
  have hTable : FollowsTable s c.state (trkStep num cfg s offOk peak c) := by
    cases offOk with
    | true => exact followsTable_trkStep_valid num cfg s peak c
    | false => exact followsTable_trkStep_invalid num cfg s peak c
  exact hTable.imp_left fun h => ⟨h.reported, h.kept⟩

end Sys2Proof.Machine

/-! PROOFS. Navigation bits: the statements of 46_bits_nav.md: word parity as masks and as a linear code
(R302, R309, R311, R312), the preamble search (R303 to R308), and the assembly, chained validation and
acceptance of a subframe (R310, R314 to R322). -/

namespace Sys2Proof.Machine

/-! ### Exclusive or over positions -/

/-- The exclusive or of `init` and of `f` at the listed positions: what the parity equations (R302) and the
parity of a register are both made of. -/
def xorOver (f : Nat → Bool) (init : Bool) (positions : List Nat) : Bool :=
  positions.foldl (fun v i => v ^^ f i) init

theorem parityOver_eq_xorOver (d : BitVec 24) (init : Bool) (bits : List Nat) :
    parityOver d init bits = xorOver (dataBit d) init bits := rfl

theorem xorOver_init (f : Nat → Bool) (init : Bool) (positions : List Nat) :
    xorOver f init positions = (init ^^ xorOver f false positions) := by
  induction positions generalizing init with
  | nil => simp [xorOver]
  | cons i is ih =>
    calc xorOver f (init ^^ f i) is = (init ^^ f i ^^ xorOver f false is) := ih _
      _ = (init ^^ (false ^^ f i ^^ xorOver f false is)) := by simp
      _ = (init ^^ xorOver f (false ^^ f i) is) := by rw [← ih]

theorem xorOver_xor (f g : Nat → Bool) (a b : Bool) (positions : List Nat) :
    xorOver (fun i => f i ^^ g i) (a ^^ b) positions = (xorOver f a positions ^^ xorOver g b positions) := by
  induction positions generalizing a b with
  | nil => rfl
  | cons i is ih =>
    calc xorOver (fun i => f i ^^ g i) (a ^^ b ^^ (f i ^^ g i)) is
        = xorOver (fun i => f i ^^ g i) ((a ^^ f i) ^^ (b ^^ g i)) is := by
          rw [Bool.xor_assoc, Bool.xor_left_comm b, ← Bool.xor_assoc]
      _ = _ := ih _ _

/-- The order of the positions does not matter. -/
theorem xorOver_reverse (f : Nat → Bool) (init : Bool) (positions : List Nat) :
    xorOver f init positions.reverse = xorOver f init positions :=
  (List.reverse_perm positions).foldl_eq' (fun x _ y _ v => Bool.xor_right_comm v (f x) (f y)) init

/-- Masking restricts the positions to those of the mask. -/
theorem xorOver_and_mask (x mask : NavWord) (init : Bool) (positions : List Nat) :
    xorOver (x &&& mask).getLsbD init positions
      = xorOver x.getLsbD init (positions.filter mask.getLsbD) := by
  rw [xorOver, xorOver, List.foldl_filter]
  congr 1
  funext v i
  cases h : mask.getLsbD i <;> simp [h]

theorem xorOver_congr {f g : Nat → Bool} (init : Bool) {positions : List Nat}
    (h : ∀ i ∈ positions, f i = g i) : xorOver f init positions = xorOver g init positions :=
  List.foldl_ext _ _ init fun v i hi => by rw [h i hi]

/-! ### The parity equations as masks, and the round trip of an encoded word (R302, R311, R312) -/

/-- Data bit `b` stands in nav bit `b` of the word, at position `30 - b` (R105). -/
theorem getLsbD_dataWord (d : BitVec 24) {b : Nat} (hLow : 1 ≤ b) (hHigh : b ≤ 24) :
    (d ++ 0#6).getLsbD (30 - b) = dataBit d b := by
  have hPast : ¬30 - b < 6 := by omega
  have hSub : 30 - b - 6 = 24 - b := by omega
  rw [BitVec.getLsbD_append, if_neg hPast, hSub, dataBit]

/-- An equation is the parity under a mask that has the equation's data bits, and no other. -/
theorem parityOver_eq_mask (d : BitVec 24) (init : Bool) {bits : List Nat} {mask : NavWord}
    (hData : ∀ b ∈ bits, 1 ≤ b ∧ b ≤ 24)
    (hMask : (List.range 30).filter mask.getLsbD = (bits.map (30 - ·)).reverse) :
    parityOver d init bits
      = (init ^^ xorOver ((d ++ 0#6 : NavWord) &&& mask).getLsbD false (List.range 30)) := by
  rw [← xorOver_init, xorOver_and_mask, hMask, xorOver_reverse, xorOver, List.foldl_map,
    parityOver_eq_xorOver]
  exact xorOver_congr init fun b hb => (getLsbD_dataWord d (hData b hb).1 (hData b hb).2).symm

/-- The receiver recovers the source data bits: complementing twice changes nothing. -/
theorem dataBits_wordEncode (d : BitVec 24) (p29 p30 : Bool) : dataBits (wordEncode d p29 p30) p30 = d := by
  rw [dataBits, wordEncode, BitVec.extractLsb'_append_eq_left, BitVec.xor_assoc, BitVec.xor_self,
    BitVec.xor_zero]

theorem wordValidate_iff (w : NavWord) (p29 p30 : Bool) :
    wordValidate w p29 p30 = true ↔ parityBits (dataBits w p30) p29 p30 = w.extractLsb' 0 6 :=
  beq_iff_eq

theorem wordValidate_wordEncode (d : BitVec 24) (p29 p30 : Bool) :
    wordValidate (wordEncode d p29 p30) p29 p30 = true := by
  rw [wordValidate_iff, dataBits_wordEncode, wordEncode, BitVec.extractLsb'_append_eq_right]

/-- Settles O53: each equation by its mask, then the encoded word. -/
theorem parityEquationsAreMasks : Obligations.ParityEquationsAreMasks := by
  refine fun d p29 p30 => ⟨?_, wordValidate_wordEncode d p29 p30⟩
  rw [parityBits,
    parityOver_eq_mask d p29 (mask := 0x3B1F3480#30) (by decide) (by decide),
    parityOver_eq_mask d p30 (mask := 0x1D8F9A40#30) (by decide) (by decide),
    parityOver_eq_mask d p29 (mask := 0x2EC7CD00#30) (by decide) (by decide),
    parityOver_eq_mask d p30 (mask := 0x1763E680#30) (by decide) (by decide),
    parityOver_eq_mask d p30 (mask := 0x2BB1F340#30) (by decide) (by decide),
    parityOver_eq_mask d p29 (mask := 0x0B7A89C0#30) (by decide) (by decide)]
  rfl

/-! ### The syndrome of a word (R309) -/

/-- What the recomputed parity and the received one differ in. Both are sums over the same bits, so it is
linear in the word and the previous bits, and a change of the input shows in it whatever the input was. -/
def syndrome (w : NavWord) (p29 p30 : Bool) : BitVec 6 :=
  parityBits (dataBits w p30) p29 p30 ^^^ w.extractLsb' 0 6

theorem wordValidate_eq_decide (w : NavWord) (p29 p30 : Bool) :
    wordValidate w p29 p30 = decide (syndrome w p29 p30 = 0#6) := by
  rw [Bool.eq_iff_iff, wordValidate_iff, decide_eq_true_iff, syndrome, BitVec.xor_eq_zero_iff]

theorem parityOver_xor (d e : BitVec 24) (a b : Bool) (bits : List Nat) :
    parityOver (d ^^^ e) (a ^^ b) bits = (parityOver d a bits ^^ parityOver e b bits) := by
  rw [parityOver_eq_xorOver, parityOver_eq_xorOver, parityOver_eq_xorOver, ← xorOver_xor]
  exact xorOver_congr _ fun i _ => BitVec.getLsbD_xor

theorem parityBits_xor (d e : BitVec 24) (p29 p30 a b : Bool) :
    parityBits (d ^^^ e) (p29 ^^ a) (p30 ^^ b) = parityBits d p29 p30 ^^^ parityBits e a b := by
  simp only [parityBits, parityOver_xor, ← BitVec.ofBool_xor_ofBool, ← BitVec.xor_append]

theorem dataBits_xor (w e : NavWord) (p30 b : Bool) :
    dataBits (w ^^^ e) (p30 ^^ b) = dataBits w p30 ^^^ dataBits e b := by
  have hFlip : (if (p30 ^^ b) = true then 0xFFFFFF#24 else 0#24)
      = (if p30 = true then 0xFFFFFF#24 else 0#24) ^^^ (if b = true then 0xFFFFFF#24 else 0#24) := by
    cases p30 <;> cases b <;> decide
  rw [dataBits, dataBits, dataBits, BitVec.extractLsb'_xor, hFlip]
  ac_rfl

theorem syndrome_xor (w e : NavWord) (p29 p30 a b : Bool) :
    syndrome (w ^^^ e) (p29 ^^ a) (p30 ^^ b) = syndrome w p29 p30 ^^^ syndrome e a b := by
  rw [syndrome, dataBits_xor, parityBits_xor, BitVec.extractLsb'_xor, syndrome, syndrome]
  ac_rfl

/-- A change whose own syndrome is not 0 makes a valid word invalid. -/
theorem wordValidate_changed {w e : NavWord} {p29 p30 a b : Bool} (hValid : wordValidate w p29 p30 = true)
    (hChange : syndrome e a b ≠ 0#6) : wordValidate (w ^^^ e) (p29 ^^ a) (p30 ^^ b) = false := by
  rw [wordValidate_eq_decide, decide_eq_true_iff] at hValid
  rw [wordValidate_eq_decide, decide_eq_false_iff_not, syndrome_xor, hValid, BitVec.zero_xor]
  exact hChange

/-- Each of the 30 bits, alone, enters some equation or is a parity bit itself. -/
theorem syndrome_bit_ne_zero : ∀ i < 30, syndrome (1#30 <<< i) false false ≠ 0#6 := by decide

/-- Settles O54: a flipped bit, and a changed previous bit, have a syndrome of their own. -/
theorem singleBitFlipInvalidates : Obligations.SingleBitFlipInvalidates := by
  refine fun w p29 p30 => ⟨wordValidate_iff w p29 p30, fun hValid => ⟨fun i hi => ?bit, ?d29, ?d30⟩⟩
  case bit => simpa using wordValidate_changed hValid (syndrome_bit_ne_zero i hi)
  case d29 =>
    have hD29 : syndrome 0#30 true false ≠ 0#6 := by decide
    simpa using wordValidate_changed hValid hD29
  case d30 =>
    have hD30 : syndrome 0#30 false true ≠ 0#6 := by decide
    simpa using wordValidate_changed hValid hD30

/-! ### The preamble test (R304) -/

theorem tlmOk_iff (v : NavWord) :
    tlmOk v = true ↔ v.extractLsb' 22 8 = 0b10001011#8 ∧ wordValidate v false false = true := by
  rw [tlmOk, Bool.and_eq_true, beq_iff_eq, preamble]

/-- The preamble begins with a 1. -/
theorem firstBit_of_tlmOk {v : NavWord} (h : tlmOk v = true) : v[29] = true := by
  obtain ⟨hTop, -⟩ := (tlmOk_iff v).mp h
  simpa using congrArg (BitVec.getLsbD · 7) hTop

/-- Settles O55: a word and its complement differ in the first bit. -/
theorem preambleNeverBothWays : Obligations.PreambleNeverBothWays := by
  refine fun v => ⟨tlmOk_iff v, fun ⟨hWord, hComplement⟩ => ?_⟩
  simpa [firstBit_of_tlmOk hWord] using firstBit_of_tlmOk hComplement

/-! ### One bit of the preamble search (R303, R305 to R308) -/

/-- R303's shift, as shift and or: the bit that leaves the word is dropped. -/
theorem shiftIn_eq_shift_or (w : NavWord) (bit : Bool) :
    shiftIn w bit = (w <<< 1) ||| (BitVec.ofBool bit).setWidth 30 := by
  refine BitVec.eq_of_getLsbD_eq fun i hi => ?_
  rw [shiftIn, BitVec.getLsbD_append]
  cases i with
  | zero => simp
  | succ i =>
    have hKept : i < 29 := by omega
    have hBit : w.getLsbD i = w[i]'(by omega) := BitVec.getLsbD_eq_getElem _
    simp [hi, hKept, hBit]

section PreambleSearch

variable {α : Type} (num : Numerics α) (s : Nat) (bit : Bool) {c : Channel α}

theorem chBit_preambleAcquire (h : c.state = .preambleAcquire) :
    chBit num s bit c = preambleBit num s bit c := by
  rw [chBit, h]

theorem chBit_subframeAcquire (h : c.state = .subframeAcquire) :
    chBit num s bit c = subframeBit num s bit c := by
  rw [chBit, h]

/-- The channel with the bit in its register and counted (R303). -/
def shifted (bit : Bool) (c : Channel α) : Channel α :=
  { c with wreg := shiftIn c.wreg bit, wbits := min (c.wbits + 1) wordBits }

theorem preambleBit_filling (h : (shifted bit c).wbits ≠ wordBits) :
    preambleBit num s bit c = quiet (shifted bit c) :=
  if_neg h

theorem preambleBit_full (h : (shifted bit c).wbits = wordBits) :
    preambleBit num s bit c = preambleTest num s (shifted bit c) :=
  if_pos h

theorem preambleTest_word (h : tlmOk c.wreg = true) :
    preambleTest num s c = preambleMatch num s c.wreg false c :=
  if_pos h

theorem preambleTest_complement (h : tlmOk c.wreg = false) (hComplement : tlmOk (~~~c.wreg) = true) :
    preambleTest num s c = preambleMatch num s (~~~c.wreg) true c := by
  simp [preambleTest, h, hComplement]

theorem preambleTest_neither (h : tlmOk c.wreg = false) (hComplement : tlmOk (~~~c.wreg) = false) :
    preambleTest num s c = quiet c := by
  simp [preambleTest, h, hComplement]

theorem preambleMatch_of_preambleAcquire (v : NavWord) (inverted : Bool) (h : c.state = .preambleAcquire) :
    preambleMatch num s v inverted c =
      ⟨{ c with polarity := if inverted = true then c.polarity.flip else c.polarity
                sf := memWrite c.sf 0 v, sfBits := 30, state := .subframeAcquire },
        [.stateChange s .preambleAcquire .subframeAcquire .advance]⟩ := by
  rw [← h]
  rfl

end PreambleSearch

/-- Settles O56: the cases of R303 on the channel that the bit was shifted into. -/
theorem preambleSearchByBit : Obligations.PreambleSearchByBit := by
  intro α num s bit c hState w c1 matched
  have hBit : chBit num s bit c = preambleBit num s bit c := chBit_preambleAcquire num s bit hState
  have hShift : shifted bit c = c1 := by
    rw [shifted, shiftIn_eq_shift_or]
    rfl
  have hFull (h : c1.wbits = 30) : chBit num s bit c = preambleTest num s c1 := by
    rw [hBit, ← hShift]
    exact preambleBit_full num s bit h
  refine ⟨?filling, ?word, ?complement, ?neither⟩
  case filling =>
    intro h
    rw [hBit, ← hShift]
    exact preambleBit_filling num s bit h
  case word =>
    intro h hWord
    rw [hFull h, preambleTest_word num s (c := c1) hWord]
    exact preambleMatch_of_preambleAcquire num s (c := c1) w false hState
  case complement =>
    intro h hWord hComplement
    rw [hFull h, preambleTest_complement num s (c := c1) hWord hComplement]
    exact preambleMatch_of_preambleAcquire num s (c := c1) (~~~w) true hState
  case neither =>
    intro h hWord hComplement
    rw [hFull h]
    exact preambleTest_neither num s (c := c1) hWord hComplement

/-! ### The bits of the subframe buffer (R310) -/

theorem getLsbD_putBit_same (w : NavWord) {p : Nat} (bit : Bool) (h : p < 30) :
    (putBit w p bit).getLsbD p = bit := by
  simp [putBit, h]

theorem getLsbD_putBit_other (w : NavWord) {p q : Nat} (bit : Bool) (h : q ≠ p) :
    (putBit w p bit).getLsbD q = w.getLsbD q := by
  rcases Nat.lt_or_ge q 30 with hq | hq
  · rcases Nat.lt_or_gt_of_ne h with hBelow | hAbove
    · simp [putBit, hq, hBelow]
    · have hPast : ¬q < p := by omega
      have hShift : q - p ≠ 0 := by omega
      simp [putBit, hq, hPast, hShift]
  · rw [BitVec.getLsbD_of_ge _ _ hq, BitVec.getLsbD_of_ge _ _ hq]

/-- Bit number `k` of a subframe buffer, in the order of arrival: the most significant bit of a word
first. -/
def frameBit (ws : List NavWord) (k : Nat) : Bool := (memRead 0 ws (k / 30)).getLsbD (29 - k % 30)

theorem memRead_placeBit_same {sf : List NavWord} {k : Nat} (bit : Bool) (h : k / 30 < sf.length) :
    memRead 0 (placeBit sf k bit) (k / 30)
      = putBit (if k % 30 = 0 then 0#30 else memRead 0 sf (k / 30)) (29 - k % 30) bit :=
  memRead_memWrite_same _ _ _ _ h

theorem memRead_placeBit_other (sf : List NavWord) {k i : Nat} (bit : Bool) (h : k / 30 ≠ i) :
    memRead 0 (placeBit sf k bit) i = memRead 0 sf i :=
  memRead_memWrite_other _ _ _ _ _ h

/-- The bit just placed is read back. -/
theorem frameBit_placeBit_same {sf : List NavWord} {k : Nat} (bit : Bool) (h : k / 30 < sf.length) :
    frameBit (placeBit sf k bit) k = bit := by
  rw [frameBit, memRead_placeBit_same bit h, getLsbD_putBit_same _ bit (by omega)]

/-- A placed bit leaves the bits before it alone: a word is cleared only at its own first bit. -/
theorem frameBit_placeBit_earlier {sf : List NavWord} {j k : Nat} (bit : Bool) (h : k / 30 < sf.length)
    (hjk : j < k) : frameBit (placeBit sf k bit) j = frameBit sf j := by
  by_cases hWord : k / 30 = j / 30
  · have hPosition : 29 - j % 30 ≠ 29 - k % 30 := by omega
    have hNotFirst : k % 30 ≠ 0 := by omega
    rw [frameBit, ← hWord, memRead_placeBit_same bit h, if_neg hNotFirst,
      getLsbD_putBit_other _ bit hPosition, hWord, frameBit]
  · rw [frameBit, memRead_placeBit_other sf bit hWord, frameBit]

/-- A buffer is what its bits are. -/
theorem eq_of_frameBit_eq {us ws : List NavWord} (hLength : us.length = ws.length)
    (hBits : ∀ k < 30 * ws.length, frameBit us k = frameBit ws k) : us = ws := by
  refine List.ext_getElem hLength fun i hu hw => BitVec.eq_of_getLsbD_eq fun p hp => ?_
  have hIndex : (30 * i + (29 - p)) / 30 = i := by omega
  have hPosition : 29 - (30 * i + (29 - p)) % 30 = p := by omega
  have hBit := hBits (30 * i + (29 - p)) (by omega)
  rw [frameBit, frameBit, hIndex, hPosition] at hBit
  simpa [memRead, hu, hw] using hBit

/-- The buffer after `n` bits of the words `ws`, from bit number `start` on, were placed in it. -/
def placeBits (ws : List NavWord) (start : Nat) (sf : List NavWord) (n : Nat) : List NavWord :=
  (List.range n).foldl (fun b j => placeBit b (start + j) (frameBit ws (start + j))) sf

theorem placeBits_succ (ws : List NavWord) (start : Nat) (sf : List NavWord) (n : Nat) :
    placeBits ws start sf (n + 1)
      = placeBit (placeBits ws start sf n) (start + n) (frameBit ws (start + n)) := by
  rw [placeBits, placeBits, List.range_succ, List.foldl_append]
  rfl

@[simp] theorem placeBits_length (ws : List NavWord) (start : Nat) (sf : List NavWord) (n : Nat) :
    (placeBits ws start sf n).length = sf.length := by
  induction n with
  | zero => rfl
  | succ n ih => rw [placeBits_succ, placeBit_length, ih]

/-- Placing bits in order keeps the buffer equal to the words on every bit that has arrived. -/
theorem frameBit_placeBits {ws sf : List NavWord} {start : Nat}
    (hSeed : ∀ k < start, frameBit sf k = frameBit ws k) {n : Nat} (hRoom : start + n ≤ 30 * sf.length) :
    ∀ k < start + n, frameBit (placeBits ws start sf n) k = frameBit ws k := by
  induction n with
  | zero => exact hSeed
  | succ n ih =>
    intro k hk
    have hInside : (start + n) / 30 < (placeBits ws start sf n).length := by
      rw [placeBits_length]
      omega
    rw [placeBits_succ]
    rcases Nat.lt_succ_iff_lt_or_eq.mp hk with hEarlier | rfl
    · rw [frameBit_placeBit_earlier _ hInside hEarlier, ih (by omega) k hEarlier]
    · exact frameBit_placeBit_same _ hInside

/-- Words 2 to 10 placed after a seeded word 1 leave the ten words (R308, R310). -/
theorem placeBits_eq_words {sf ws : List NavWord} (hsf : sf.length = 10) (hws : ws.length = 10)
    (hFirst : sf[0]? = ws[0]?) : placeBits ws 30 sf 270 = ws := by
  have hSeed : ∀ k < 30, frameBit sf k = frameBit ws k := by
    intro k hk
    have hIndex : k / 30 = 0 := by omega
    simp [frameBit, memRead, hIndex, List.getD, hFirst]
  refine eq_of_frameBit_eq (by rw [placeBits_length, hsf, hws]) fun k hk => ?_
  exact frameBit_placeBits hSeed (by omega) k (by omega)

section SubframeBit

variable {α : Type} (num : Numerics α) (s : Nat) (bit : Bool) {c : Channel α}

theorem subframeBit_filling (h : c.sfBits + 1 ≠ 300) :
    subframeBit num s bit c = quiet { c with sf := placeBit c.sf c.sfBits bit, sfBits := c.sfBits + 1 } :=
  if_neg h

theorem subframeBit_full (h : c.sfBits + 1 = 300) :
    subframeBit num s bit c =
      validateSubframe num s { c with sf := placeBit c.sf c.sfBits bit, sfBits := c.sfBits + 1 } :=
  if_pos h

end SubframeBit

/-- Settles O57: the rule of one bit, and the buffer that the 270 bits leave. -/
theorem subframeAssembledInOrder : Obligations.SubframeAssembledInOrder := by
  refine ⟨fun α num s bit c hState => ?_, fun sf ws hsf hws hFirst => placeBits_eq_words hsf hws hFirst⟩
  rw [chBit_subframeAcquire num s bit hState]
  exact ⟨subframeBit_filling num s bit, subframeBit_full num s bit⟩

/-! ### Chained validation (R314, R316) -/

/-- Word `i` of a subframe, counted from 1. -/
def sfWord (ws : List NavWord) (i : Nat) : NavWord := ws.getD (i - 1) 0

/-- Bit `b` of the word before word `i`: 0 for word 1 (R314). -/
def carriedBit (ws : List NavWord) (b i : Nat) : Bool :=
  if i = 1 then false else (sfWord ws (i - 1)).getLsbD b

/-- Word `i` is valid after the word before it. -/
def wordChains (ws : List NavWord) (i : Nat) : Bool :=
  wordValidate (sfWord ws i) (carriedBit ws 1 i) (carriedBit ws 0 i)

/-- What a word after the first is validated with: the last two bits of the word before it. -/
theorem carriedBit_succ (ws : List NavWord) (b : Nat) {k : Nat} (h : 0 < k) :
    carriedBit ws b (k + 1) = (sfWord ws k).getLsbD b :=
  if_neg (by omega)

theorem drop_eq_sfWord_cons {ws : List NavWord} {k : Nat} (h : k < ws.length) :
    ws.drop k = sfWord ws (k + 1) :: ws.drop (k + 1) := by
  rw [List.drop_eq_getElem_cons h, sfWord, Nat.add_sub_cancel, List.getD_eq_getElem _ _ h]

theorem chainValidate_pass (i : Nat) {p29 p30 : Bool} {w : NavWord} (ws : List NavWord)
    (h : wordValidate w p29 p30 = true) :
    chainValidate i p29 p30 (w :: ws) = chainValidate (i + 1) (w.getLsbD 1) (w.getLsbD 0) ws :=
  if_pos h

theorem chainValidate_fail (i : Nat) {p29 p30 : Bool} {w : NavWord} (ws : List NavWord)
    (h : wordValidate w p29 p30 = false) : chainValidate i p29 p30 (w :: ws) = ⟨p29, p30, some i⟩ :=
  if_neg (ne_true_of_eq_false h)

/-- While the first `k` words are valid, the validation has arrived at word `k + 1`. -/
theorem chainValidate_of_leadingValid {ws : List NavWord} {k : Nat} (hk : k ≤ ws.length)
    (hValid : ∀ j, 1 ≤ j → j ≤ k → wordChains ws j = true) :
    chainValidate 1 false false ws
      = chainValidate (k + 1) (carriedBit ws 1 (k + 1)) (carriedBit ws 0 (k + 1)) (ws.drop k) := by
  induction k with
  | zero => rfl
  | succ k ih =>
    rw [ih (by omega) fun j hLow hHigh => hValid j hLow (by omega), drop_eq_sfWord_cons hk,
      chainValidate_pass _ _ (hValid (k + 1) (by omega) le_rfl),
      carriedBit_succ ws 1 k.succ_pos, carriedBit_succ ws 0 k.succ_pos]

theorem chainValidate_firstFailure {ws : List NavWord} {i : Nat} (hLow : 1 ≤ i) (hHigh : i ≤ ws.length)
    (hFail : wordChains ws i = false) (hValid : ∀ j, 1 ≤ j → j < i → wordChains ws j = true) :
    chainValidate 1 false false ws = ⟨carriedBit ws 1 i, carriedBit ws 0 i, some i⟩ := by
  obtain ⟨k, rfl⟩ : ∃ k, i = k + 1 := ⟨i - 1, by omega⟩
  rw [chainValidate_of_leadingValid (k := k) (by omega) fun j h1 h2 => hValid j h1 (by omega),
    drop_eq_sfWord_cons hHigh, chainValidate_fail _ _ hFail]

theorem chainValidate_allValid {ws : List NavWord} (hNonempty : 0 < ws.length)
    (hValid : ∀ j, 1 ≤ j → j ≤ ws.length → wordChains ws j = true) :
    chainValidate 1 false false ws
      = ⟨(sfWord ws ws.length).getLsbD 1, (sfWord ws ws.length).getLsbD 0, none⟩ := by
  rw [chainValidate_of_leadingValid le_rfl hValid, List.drop_length, carriedBit_succ ws 1 hNonempty,
    carriedBit_succ ws 0 hNonempty, chainValidate]

section Validation

variable {α : Type} (num : Numerics α) (s : Nat) {c : Channel α} {d29 d30 : Bool}

theorem validateSubframe_wordFails {idx : Nat}
    (h : chainValidate 1 false false c.sf = ⟨d29, d30, some idx⟩) :
    validateSubframe num s c = rejectSubframe num s idx { c with d29 := d29, d30 := d30 } := by
  simp [validateSubframe, h]

theorem validateSubframe_tailNotZero (h : chainValidate 1 false false c.sf = ⟨d29, d30, none⟩)
    (hTail : d29 = true ∨ d30 = true) :
    validateSubframe num s c = rejectSubframe num s 11 { c with d29 := d29, d30 := d30 } := by
  simp [validateSubframe, h, hTail]

theorem validateSubframe_accepts (h : chainValidate 1 false false c.sf = ⟨false, false, none⟩) :
    validateSubframe num s c = acceptSubframe num s { c with d29 := false, d30 := false } := by
  simp [validateSubframe, h]

end Validation

/-- Settles O58: where the validation stops, and what follows there. -/
theorem chainedValidationDecides : Obligations.ChainedValidationDecides := by
  intro α num s c hLength word p29 p30 rejected
  refine ⟨fun i hLow hHigh hFail hBefore => ?fails, fun hAll => ?all⟩
  case fails =>
    exact validateSubframe_wordFails num s
      (chainValidate_firstFailure hLow (by omega) hFail hBefore)
  case all =>
    have hChain : chainValidate 1 false false c.sf
        = ⟨(word 10).getLsbD 1, (word 10).getLsbD 0, none⟩ := by
      rw [chainValidate_allValid (by omega) fun j hLow hHigh => hAll j hLow (by omega), hLength]
      rfl
    refine ⟨fun hTail => validateSubframe_tailNotZero num s hChain hTail, fun h29 h30 => ?_⟩
    rw [h29, h30] at hChain
    exact validateSubframe_accepts num s hChain

/-! ### What an accepted subframe leaves (R317 to R322) -/

theorem idStored_iff (id : BitVec 3) : idStored id = true ↔ 1 ≤ id.toNat ∧ id.toNat ≤ 5 := by
  rw [idStored, Bool.and_eq_true, decide_eq_true_iff, decide_eq_true_iff, frameSf]

section Accepted

variable {α : Type} (num : Numerics α) (s : Nat) {c : Channel α}

theorem keepSubframe_notStored (h : idStored (subframeId c) = false) : keepSubframe s c = quiet c :=
  if_neg (ne_true_of_eq_false h)

/-- After subframe 5 the mark of subframe 1 is the one that stood before it. -/
theorem keepSubframe_stored (h : idStored (subframeId c) = true) :
    keepSubframe s c = ⟨storeSubframe c,
      if (subframeId c).toNat = 5 ∧ c.sf1Seen = true then [.frameReady s] else []⟩ := by
  have hMark : ((subframeId c).toNat = 5 ∧ (storeSubframe c).sf1Seen = true)
      ↔ ((subframeId c).toNat = 5 ∧ c.sf1Seen = true) :=
    and_congr_right fun h5 => by simp [storeSubframe, h5]
  rw [keepSubframe, if_pos h]
  simp only [hMark]

/-- The step back to `PREAMBLE_ACQUIRE` after a subframe keeps the polarity (R252, R321). -/
theorem goto_subframeDone (d : Channel α) (h : d.state = .subframeAcquire) :
    goto num s .preambleAcquire .subframeDone { d with sfBits := 0 } =
      ⟨{ d with sfBits := 0, state := .preambleAcquire, wreg := 0, wbits := 0 },
        [.stateChange s .subframeAcquire .preambleAcquire .subframeDone]⟩ := by
  simp [goto, entryActions, h]

/-- An accepted subframe by what is kept of it, in the state it was assembled in. -/
theorem acceptSubframe_of_keep {d : Channel α} {evs : List (Event α)} (hKeep : keepSubframe s c = ⟨d, evs⟩)
    (hState : d.state = .subframeAcquire) :
    acceptSubframe num s c =
      ⟨{ d with sfBits := 0, state := .preambleAcquire, wreg := 0, wbits := 0 },
        .subframe s (idStored (subframeId c)) (subframeId c) c.sf (subframeMeta c)
          :: (evs ++ [.stateChange s .subframeAcquire .preambleAcquire .subframeDone])⟩ := by
  simp [acceptSubframe, Tracked.andThen, hKeep, goto_subframeDone num s d hState]

end Accepted

/-- Settles O59: by the id, stored or not. -/
theorem acceptedSubframeKept : Obligations.AcceptedSubframeKept := by
  intro α num s c hState t hd id info back
  refine ⟨fun hOutside => ?notStored, fun hLow hHigh => ?stored⟩
  case notStored =>
    have hId : idStored (subframeId c) = false := by
      rw [← Bool.not_eq_true, idStored_iff]
      change ¬(1 ≤ id.toNat ∧ id.toNat ≤ 5)
      omega
    rw [acceptSubframe_of_keep num s (keepSubframe_notStored s hId) hState, hId]
    rfl
  case stored =>
    have hId : idStored (subframeId c) = true := (idStored_iff _).mpr ⟨hLow, hHigh⟩
    rw [acceptSubframe_of_keep num s (keepSubframe_stored s hId) hState, hId]
    rfl

end Sys2Proof.Machine

/-! PROOFS. Dispatcher and host: the statements of 47_dispatcher_host.md on `NOP` (R360), on what `SAMPLE` does
(R341, R342, R384), and on the receiver and the host's commands leaving each other alone (R340, R364). -/

namespace Sys2Proof.Machine

/-- Settles O12: `NOP` answers the block it was given, and the port is not touched. -/
theorem nopDoesNothing : Obligations.NopDoesNothing :=
  fun _ => onBlock_of_next (f := doNop) rfl

/-! ### What a sample does (R341, R342, R384) -/

section SampleRule

variable {α : Type} (num : Numerics α) {b : Block α}

theorem withOperands_supplied {k : α → α → Block α → BlockOutcome α} {x y : α} (hx : b.cmd.opa = some x)
    (hy : b.cmd.opb = some y) : withOperands k b = k x y b := by
  simp only [withOperands, hx, hy]

theorem whenStreamIntact_consumed {consumed : Bool} {k : Block α → BlockOutcome α} (hNumber : consumed = true)
    (hNan : b.sys.errNan = true) : whenStreamIntact consumed k b = .refused .streamViolated := by
  simp [whenStreamIntact, hNumber, hNan]

theorem whenStreamIntact_not_consumed {consumed : Bool} {k : Block α → BlockOutcome α}
    (hNumber : ¬consumed = true) : whenStreamIntact consumed k b = k b := by
  simp [whenStreamIntact, hNumber]

theorem sampleIsNumber_iff (x y : α) :
    sampleIsNumber num x y = true ↔ num.isNumber x = true ∧ num.isNumber y = true :=
  Bool.and_eq_true_iff

/-- `err_nan` is all that a sample which is not a number can set (R384). -/
theorem raise_nanSample_of_set (h : b.sys.errNan = true) : raise .nanSample b = b := by
  simp only [raise, ← h]

theorem sampleStep_not_number {x y : α} (h : ¬sampleIsNumber num x y = true) :
    sampleStep num x y b = raise .nanSample b :=
  if_neg h

/-- A sample, spelled out: taken within its block or as the last of it, or a condition raised. -/
theorem sampleStep_eq (x y : α) (b : Block α) :
    sampleStep num x y b =
      if num.isNumber x = true ∧ num.isNumber y = true then
        if b.sys.blkFill + 1 = b.cfg.n then blockDone num (fedSample ⟨x, y⟩ b) else fedSample ⟨x, y⟩ b
      else raise .nanSample b :=
  if_congr (sampleIsNumber_iff num x y) rfl rfl

end SampleRule

section SampleCommand

variable {s : State} {x y : NumVal}

/-- `SAMPLE` past the checks of its mode and of its operands: what is left is the check of the stream. -/
theorem doSample_supplied (hRun : s.sys.mode = .run) (hx : s.cmd.opa = some x) (hy : s.cmd.opb = some y) :
    doSample Config.num s.toBlock =
      whenStreamIntact (sampleIsNumber Config.num x y) (fun b => .next (sampleStep Config.num x y b)) s.toBlock :=
  (whenRunning_run hRun).trans (withOperands_supplied hx hy)

/-- A sample that the check of the stream lets pass. -/
theorem exec_sample_intact (hRun : s.sys.mode = .run) (hx : s.cmd.opa = some x) (hy : s.cmd.opb = some y)
    (h : s.sys.errNan = false ∨ ¬sampleIsNumber Config.num x y = true) :
    exec .sample s = .next { s with toBlock := sampleStep Config.num x y s.toBlock } := by
  refine onBlock_of_next ((doSample_supplied hRun hx hy).trans ?_)
  rcases h with hClear | hNumber
  · exact whenStreamIntact_clear hClear
  · exact whenStreamIntact_not_consumed hNumber

theorem exec_sample_violated (hRun : s.sys.mode = .run) (hx : s.cmd.opa = some x) (hy : s.cmd.opb = some y)
    (hNan : s.sys.errNan = true) (hNumber : sampleIsNumber Config.num x y = true) :
    exec .sample s = .refused .streamViolated :=
  onBlock_of_refused ((doSample_supplied hRun hx hy).trans (whenStreamIntact_consumed hNumber hNan))

end SampleCommand

/-- Settles O18: the check of the mode, then the sample while the stream is intact; after it was violated only
a sample that is no number passes, and the flag it sets is set already. -/
theorem sampleFollowsRule : Obligations.SampleFollowsRule := by
  intro s x y hx hy
  refine ⟨fun hFatal => exec_fatal hFatal nofun, fun hRun hClear => ?clear, fun hRun hNan => ?violated⟩
  case clear =>
    have hExec := exec_sample_intact hRun hx hy (.inl hClear)
    rw [sampleStep_eq] at hExec
    exact hExec
  case violated =>
    split_ifs with hNumbers
    · exact exec_sample_violated hRun hx hy hNan ((sampleIsNumber_iff Config.num x y).mpr hNumbers)
    · have hNumber := mt (sampleIsNumber_iff Config.num x y).mp hNumbers
      have hExec := exec_sample_intact hRun hx hy (.inr hNumber)
      rw [sampleStep_not_number Config.num hNumber, raise_nanSample_of_set hNan] at hExec
      exact hExec

/-! ### The receiver does not see the host's registers (R340, R364)

Every operation that a sample is made of gives the same block whether the host's registers are replaced before
it or after it. -/

section HostRegisters

variable {α : Type} (num : Numerics α)

/-- The block with the host's oscillator and the command registers replaced. -/
def withHost (o : Osc α) (cmd : CmdRegs α) (b : Block α) : Block α := { b with ncoH := o, cmd := cmd }

/-- An operation on the block that neither reads nor writes what the host's commands write. -/
def IgnoresHost (f : Block α → Block α) : Prop :=
  ∀ o cmd b, f (withHost o cmd b) = withHost o cmd (f b)

variable {f g : Block α → Block α}

theorem IgnoresHost.comp (hg : IgnoresHost g) (hf : IgnoresHost f) : IgnoresHost fun b => g (f b) := by
  intro o cmd b
  calc g (f (withHost o cmd b)) = g (withHost o cmd (f b)) := by rw [hf]
    _ = withHost o cmd (g (f b)) := hg o cmd (f b)

/-- A choice between two such operations, by a condition on the rest of the block. -/
theorem IgnoresHost.ite {p : Block α → Prop} [DecidablePred p] (hp : ∀ o cmd b, p (withHost o cmd b) ↔ p b)
    (hf : IgnoresHost f) (hg : IgnoresHost g) : IgnoresHost fun b => if p b then f b else g b := by
  intro o cmd b
  simp only [hp, hf o cmd b, hg o cmd b]
  exact (apply_ite (withHost o cmd) (p b) (f b) (g b)).symm

theorem ignoresHost_id : IgnoresHost fun b : Block α => b := fun _ _ _ => rfl

theorem IgnoresHost.foldl {β : Type} {op : Block α → β → Block α} (h : ∀ x, IgnoresHost fun b => op b x)
    (xs : List β) : IgnoresHost fun b => xs.foldl op b := by
  induction xs with
  | nil => exact ignoresHost_id
  | cons x xs ih => exact ih.comp (h x)

theorem ignoresHost_reportOne (x : Found α) : IgnoresHost fun b => reportOne num b x := by
  have hPromoted : IgnoresHost fun b => acqPromote num x.sat x.freq
      (emit (.acqResult x.sat (!(channelAt num b x.sat).active) x.ratio x.freq) b) := fun _ _ _ => rfl
  have hReported : IgnoresHost fun b =>
      emit (.acqResult x.sat (!(channelAt num b x.sat).active) x.ratio x.freq) b := fun _ _ _ => rfl
  exact hPromoted.ite (p := fun b => (!(channelAt num b x.sat).active) = true) (fun _ _ _ => Iff.rfl) hReported

theorem ignoresHost_acqReport : IgnoresHost (acqReport num) := by
  intro o cmd b
  have hAll := IgnoresHost.foldl (ignoresHost_reportOne num) b.acq.found o cmd
    (emit (.acqDone b.acq.found.length) b)
  exact congrArg (fun b : Block α => { b with acq := { b.acq with state := .idle } }) hAll

theorem ignoresHost_pollSweep : IgnoresHost (pollSweep num) := by
  have hSwept : IgnoresHost fun b => acqSweep num { b with draws := drawsAfter b } := fun _ _ _ => rfl
  have hWaited : IgnoresHost fun b : Block α =>
      { b with draws := drawsAfter b, acq := { b.acq with wait := b.acq.wait + 1 } } := fun _ _ _ => rfl
  exact hSwept.ite (p := fun b => sweepComplete b = true) (fun _ _ _ => Iff.rfl) hWaited

/-- `ACQ.POLL` is two such choices, one after the other. -/
theorem ignoresHost_acqPoll : IgnoresHost (acqPoll num) := by
  have hSweep : IgnoresHost fun b => if b.acq.state = .searching then pollSweep num b else b :=
    (ignoresHost_pollSweep num).ite (fun _ _ _ => Iff.rfl) ignoresHost_id
  have hReport : IgnoresHost fun b => if b.acq.state = .resultsReady then acqReport num b else b :=
    (ignoresHost_acqReport num).ite (fun _ _ _ => Iff.rfl) ignoresHost_id
  exact hReport.comp hSweep

theorem ignoresHost_polledBlock : IgnoresHost (polledBlock num) := fun _ _ _ => rfl

theorem ignoresHost_blockDone : IgnoresHost (blockDone num) := by
  have hEmpty : IgnoresHost fun b : Block α => { b with sys := { b.sys with blkFill := 0 } } :=
    fun _ _ _ => rfl
  exact hEmpty.comp ((ignoresHost_acqPoll num).comp (ignoresHost_polledBlock num))

theorem ignoresHost_fedSample (x : Cx α) : IgnoresHost (fedSample x) := fun _ _ _ => rfl

theorem ignoresHost_takeSample (x : Cx α) : IgnoresHost (takeSample num x) :=
  ((ignoresHost_blockDone num).comp (ignoresHost_fedSample x)).ite
    (p := fun b => b.sys.blkFill + 1 = b.cfg.n) (fun _ _ _ => Iff.rfl) (ignoresHost_fedSample x)

theorem ignoresHost_sampleStep (re im : α) : IgnoresHost (sampleStep num re im) := by
  have hRaised : IgnoresHost (raise (α := α) .nanSample) := fun _ _ _ => rfl
  exact (ignoresHost_takeSample num ⟨re, im⟩).ite (p := fun _ => sampleIsNumber num re im = true)
    (fun _ _ _ => Iff.rfl) hRaised

end HostRegisters

/-- Settles O11: a command other than `SAMPLE` makes a host's change only, and a sample is made of operations
that do not see the host's registers. -/
theorem hostCommandsLeaveReceiverAlone : Obligations.HostCommandsLeaveReceiverAlone := by
  refine ⟨fun i s t hi hExec => ?receiver, fun α num re im b o cmd => ?host⟩
  case receiver =>
    rw [exec_eq_performOver] at hExec
    obtain ⟨hBlock, -⟩ := onBlock_next hExec
    obtain ⟨_, _, _, _, hChange⟩ := performOver_hostChange hi hBlock
    rw [hChange]
    exact ⟨rfl, rfl, rfl, rfl, rfl, rfl, rfl, rfl⟩
  case host => exact ignoresHost_sampleStep num re im o cmd b

end Sys2Proof.Machine

/-! PROOFS. PeriodAndLoss: the start of a period behind its offset (44_tracking_frontend.md R224), and the loss
of the signal as the one thing that stops a channel (45_tracking_fsm.md R252, R275, 44_tracking_frontend.md
R229). -/

namespace Sys2Proof.Machine

/-! ### A new period (R224) -/

section NewPeriod

variable {α : Type} {cfg : Cfg} {c : Channel α} {n k i : Nat} {buf : List (Cx α)}

/-- The head of the re-used buffer is the tail of the old one. -/
theorem reuseTail_getElem?_of_lt (hLength : buf.length = n) (hk : k ≤ n) (hi : i < k) :
    (reuseTail n k buf)[i]? = buf[n - k + i]? := by
  have hTail : i < ((buf.drop (n - k)).take k).length := by simp; omega
  rw [reuseTail, List.getElem?_append_left hTail, List.getElem?_take_of_lt hi, List.getElem?_drop]

/-- Behind its head the re-used buffer is the old one. -/
theorem reuseTail_getElem?_of_le (hLength : buf.length = n) (hk : k ≤ n) (hi : k ≤ i) :
    (reuseTail n k buf)[i]? = buf[i]? := by
  have hTail : ((buf.drop (n - k)).take k).length = k := by simp; omega
  rw [reuseTail, List.getElem?_append_right (hTail.symm ▸ hi), hTail, List.getElem?_drop,
    Nat.add_sub_cancel' hi]

theorem startPeriod_of_pos (h : 0 < c.codeOff) :
    startPeriod cfg c = { c with skip := c.codeOff.natAbs, fill := 0 } :=
  if_pos h

theorem startPeriod_of_zero (h : c.codeOff = 0) : startPeriod cfg c = { c with skip := 0, fill := 0 } := by
  simp [startPeriod, h]

theorem startPeriod_of_neg (h : c.codeOff < 0) :
    startPeriod cfg c =
      { c with buf := reuseTail cfg.n c.codeOff.natAbs c.buf, skip := 0, fill := c.codeOff.natAbs } := by
  simp [startPeriod, h.le, h.ne]

end NewPeriod

/-- Settles O43, by the sign of the offset. -/
theorem newPeriodAfterOffset : Obligations.NewPeriodAfterOffset := by
  intro α cfg c hLength hLow _ d k
  rcases lt_trichotomy c.codeOff 0 with hNeg | hZero | hPos
  · have hd : d = _ := startPeriod_of_neg hNeg
    have hk : k ≤ cfg.n := by omega
    rw [hd]
    exact ⟨rfl, fun h => absurd hNeg h.not_gt, fun h => absurd h hNeg.ne,
      fun _ => ⟨rfl, rfl, fun _ => reuseTail_getElem?_of_lt hLength hk,
        fun _ => reuseTail_getElem?_of_le hLength hk⟩,
      by dsimp only; omega⟩
  · have hd : d = _ := startPeriod_of_zero hZero
    rw [hd]
    exact ⟨rfl, fun h => absurd hZero h.ne', fun _ => ⟨rfl, rfl, rfl⟩, fun h => absurd hZero h.ne,
      by dsimp only; omega⟩
  · have hd : d = _ := startPeriod_of_pos hPos
    rw [hd]
    exact ⟨rfl, fun _ => ⟨rfl, rfl, rfl⟩, fun h => absurd h hPos.ne', fun h => absurd hPos h.not_gt,
      by dsimp only; omega⟩

/-! ### What stops a channel (R252, R275)

Every rule of a period keeps `alive` but the entry into `SIGNAL_LOST`, which clears it. -/

/-- A channel that a rule may run on. -/
structure Tracking {α : Type} (c : Channel α) : Prop where
  alive : c.alive = true
  not_lost : c.state ≠ .signalLost

/-- What every rule owes: the channel it leaves is stopped exactly when its signal is lost. -/
def StopsOnLoss {α : Type} (t : Tracked α) : Prop := t.ch.alive = false ↔ t.ch.state = .signalLost

section Loss

variable {α : Type} (num : Numerics α) (cfg : Cfg) (s : Nat) {c : Channel α}

theorem Tracking.stopsOnLoss {t : Tracked α} (h : Tracking t.ch) : StopsOnLoss t :=
  iff_of_false (by simp [h.alive]) h.not_lost

/-- A rule that changes neither `alive` nor the lock state. -/
theorem stopsOnLoss_quiet (h : Tracking c) : StopsOnLoss (quiet c) := Tracking.stopsOnLoss h

theorem entryActions_alive {old new : LockState} (h : new ≠ .signalLost) :
    (entryActions num old new c).alive = c.alive := by
  cases new with
  | signalLost => exact absurd rfl h
  | _ => rfl

/-- The one way the state changes stops a channel that is alive exactly when it loses its signal (R252). -/
theorem stopsOnLoss_goto (new : LockState) (cause : Cause) (h : c.alive = true) :
    StopsOnLoss (goto num s new cause c) := by
  have hState : (goto num s new cause c).ch.state = new := entryActions_state ..
  by_cases hLost : new = .signalLost
  · subst hLost
    exact iff_of_true rfl hState
  · have hAlive : (goto num s new cause c).ch.alive = true := (entryActions_alive num hLost).trans h
    exact Tracking.stopsOnLoss ⟨hAlive, hState.trans_ne hLost⟩

/-! #### Navigation -/

theorem stopsOnLoss_preambleBit (bit : Bool) (h : Tracking c) : StopsOnLoss (preambleBit num s bit c) := by
  simp only [preambleBit, preambleTest]
  split_ifs
  · exact stopsOnLoss_goto num s _ _ h.alive
  · exact stopsOnLoss_goto num s _ _ h.alive
  · exact stopsOnLoss_quiet ⟨h.alive, h.not_lost⟩
  · exact stopsOnLoss_quiet ⟨h.alive, h.not_lost⟩

@[simp] theorem keepSubframe_alive (c : Channel α) : (keepSubframe s c).ch.alive = c.alive := by
  unfold keepSubframe
  split_ifs <;> rfl

theorem stopsOnLoss_acceptSubframe (h : c.alive = true) : StopsOnLoss (acceptSubframe num s c) :=
  stopsOnLoss_goto num s (c := { (keepSubframe s c).ch with sfBits := 0 }) _ .subframeDone
    ((keepSubframe_alive s c).trans h)

theorem stopsOnLoss_rejectSubframe (idx : Nat) (h : c.alive = true) :
    StopsOnLoss (rejectSubframe num s idx c) :=
  stopsOnLoss_goto num s _ .parity h

theorem stopsOnLoss_subframeBit (bit : Bool) (h : Tracking c) : StopsOnLoss (subframeBit num s bit c) := by
  simp only [subframeBit, validateSubframe]
  split
  · split
    · exact stopsOnLoss_rejectSubframe num s _ h.alive
    · split_ifs
      · exact stopsOnLoss_rejectSubframe num s _ h.alive
      · exact stopsOnLoss_acceptSubframe num s h.alive
  · exact stopsOnLoss_quiet ⟨h.alive, h.not_lost⟩

theorem stopsOnLoss_chBit (bit : Bool) (h : Tracking c) : StopsOnLoss (chBit num s bit c) := by
  unfold chBit
  cases c.state with
  | preambleAcquire => exact stopsOnLoss_preambleBit num s bit h
  | subframeAcquire => exact stopsOnLoss_subframeBit num s bit h
  | _ => exact stopsOnLoss_quiet h

/-! #### The bit rules and the phase checks -/

theorem stopsOnLoss_bitSyncStage (peak : Cx α) (h : Tracking c) : StopsOnLoss (bitSyncStage num s peak c) := by
  simp only [bitSyncStage]
  split_ifs
  · exact stopsOnLoss_quiet ⟨h.alive, h.not_lost⟩
  · exact stopsOnLoss_goto num s (c := { c with bsPrev := num.sgn peak.re }) .preambleAcquire .advance h.alive
  · exact stopsOnLoss_quiet ⟨h.alive, h.not_lost⟩

theorem stopsOnLoss_bitStage (peak : Cx α) (h : Tracking c) : StopsOnLoss (bitStage num s peak c) := by
  simp only [bitStage]
  split_ifs
  · exact stopsOnLoss_goto num s (c := { c with bitSum := 0, bitCnt := 0 }) _ .bitsync h.alive
  · exact stopsOnLoss_chBit num s (c := { c with bitSum := 0, bitCnt := 0 }) _ ⟨h.alive, h.not_lost⟩
  · exact stopsOnLoss_quiet ⟨h.alive, h.not_lost⟩

theorem stopsOnLoss_pllCount (ok : Bool) (h : Tracking c) : StopsOnLoss (pllCount num s ok c) := by
  simp only [pllCount]
  split_ifs
  · exact stopsOnLoss_goto num s _ _ h.alive
  · exact stopsOnLoss_quiet ⟨h.alive, h.not_lost⟩
  · exact stopsOnLoss_quiet ⟨h.alive, h.not_lost⟩

theorem stopsOnLoss_ifAlive {rule : Channel α → Tracked α} (h : Tracking c)
    (hRule : ∀ d : Channel α, Tracking d → StopsOnLoss (rule d)) : StopsOnLoss (ifAlive rule c) := by
  rw [ifAlive_of_alive rule h.alive]
  exact hRule c h

/-- The phase-loss count loses the signal, or leaves a tracking channel to the rule that follows it. -/
theorem stopsOnLoss_checkedStage (peak : Cx α) {rule : Channel α → Tracked α} (h : Tracking c)
    (hRule : ∀ d : Channel α, Tracking d → StopsOnLoss (rule d)) :
    StopsOnLoss (checkedStage num s peak rule c) := by
  by_cases hCheck : iqOk num peak = true ∨ c.iqInvalid + 1 ≠ iqInvalidN
  · rw [checkedStage_kept num s peak rule hCheck]
    exact stopsOnLoss_ifAlive ⟨h.alive, h.not_lost⟩ hRule
  · obtain ⟨hBad, hTenth⟩ := not_or.mp hCheck
    rw [checkedStage_lost num s peak rule (Bool.eq_false_iff.mpr hBad) (not_not.mp hTenth)]
    exact stopsOnLoss_goto num s _ _ h.alive

/-! #### Frequency and offsets -/

theorem stopsOnLoss_frequencyStage (peak : Cx α) (h : Tracking c) :
    StopsOnLoss (frequencyStage num cfg s peak c) := by
  simp only [frequencyStage, frequencyDelta, estimate]
  split_ifs
  · exact stopsOnLoss_goto num s _ _ h.alive
  · exact stopsOnLoss_quiet ⟨h.alive, h.not_lost⟩
  · exact stopsOnLoss_quiet ⟨h.alive, h.not_lost⟩
  · exact stopsOnLoss_quiet ⟨h.alive, h.not_lost⟩
  · exact stopsOnLoss_quiet ⟨h.alive, h.not_lost⟩

theorem stopsOnLoss_offsetStage (offOk : Bool) (h : Tracking c) : StopsOnLoss (offsetStage num s offOk c) := by
  simp only [offsetStage]
  split_ifs
  · exact stopsOnLoss_goto num s _ _ h.alive
  · exact stopsOnLoss_quiet ⟨h.alive, h.not_lost⟩
  · exact stopsOnLoss_goto num s _ _ h.alive
  · exact stopsOnLoss_quiet ⟨h.alive, h.not_lost⟩

theorem stopsOnLoss_offsetInvalidLater (h : Tracking c) : StopsOnLoss (offsetInvalidLater num s c) := by
  simp only [offsetInvalidLater]
  split_ifs
  · exact stopsOnLoss_goto num s _ _ h.alive
  · exact stopsOnLoss_quiet ⟨h.alive, h.not_lost⟩

/-! #### The lock state machine -/

/-- The loop's update leaves a tracking channel tracking (R264, R266). -/
theorem Tracking.pllPush (e : α) (h : Tracking c) : Tracking (pllPush num cfg e c) :=
  ⟨(pllPush_alive ..).trans h.alive, (pllPush_state ..).trans_ne h.not_lost⟩

theorem stopsOnLoss_trkStep_valid (peak : Cx α) (h : Tracking c) :
    StopsOnLoss (trkStep num cfg s true peak c) := by
  have hCleared : Tracking { c with offInvalid := 0 } := ⟨h.alive, h.not_lost⟩
  have hPushed := hCleared.pllPush num cfg (costas num peak)
  cases hState : c.state with
  | offsetAcquire =>
    rw [trkStep_of_offsetAcquire num cfg s peak _ hState]
    exact stopsOnLoss_offsetStage num s _ h
  | frequencyAcquire =>
    rw [trkStep_frequencyAcquire num cfg s peak hState]
    exact stopsOnLoss_frequencyStage num cfg s peak hCleared
  | pllAcquire =>
    rw [trkStep_pllAcquire num cfg s peak hState]
    exact stopsOnLoss_pllCount num s _ hPushed
  | bitAcquire =>
    rw [trkStep_bitAcquire num cfg s peak hState]
    exact stopsOnLoss_checkedStage num s peak hPushed fun _ => stopsOnLoss_bitSyncStage num s peak
  | preambleAcquire =>
    rw [trkStep_bitWindow num cfg s peak (.inl hState)]
    exact stopsOnLoss_checkedStage num s peak hPushed fun _ => stopsOnLoss_bitStage num s peak
  | subframeAcquire =>
    rw [trkStep_bitWindow num cfg s peak (.inr hState)]
    exact stopsOnLoss_checkedStage num s peak hPushed fun _ => stopsOnLoss_bitStage num s peak
  | signalLost => exact absurd hState h.not_lost

theorem stopsOnLoss_trkStep_invalid (peak : Cx α) (h : Tracking c) :
    StopsOnLoss (trkStep num cfg s false peak c) := by
  by_cases hFirst : c.state = .offsetAcquire
  · rw [trkStep_of_offsetAcquire num cfg s peak _ hFirst]
    exact stopsOnLoss_offsetStage num s _ h
  · rw [trkStep_of_invalid num cfg s peak hFirst h.not_lost]
    exact stopsOnLoss_offsetInvalidLater num s h

theorem feedAll_of_dead (spec xs : List (Cx α)) (hDead : c.alive = false) :
    feedAll num cfg spec s xs c = quiet c := by
  induction xs with
  | nil => rfl
  | cons x xs ih =>
    rw [feedAll, chFeed_of_dead num cfg spec s x hDead]
    exact ih

end Loss

/-- Settles O45: rule by rule for the period, sample by sample for the block. -/
theorem onlyLossStopsAChannel : Obligations.OnlyLossStopsAChannel := by
  refine fun α num cfg s =>
    ⟨fun offOk peak c hAlive hKept => ?period, fun spec xs c => feedAll_of_dead num cfg s spec xs⟩
  cases offOk with
  | true => exact stopsOnLoss_trkStep_valid num cfg s peak ⟨hAlive, hKept⟩
  | false => exact stopsOnLoss_trkStep_invalid num cfg s peak ⟨hAlive, hKept⟩

end Sys2Proof.Machine
